-- ==== Sys2Proof/Word.lean ====
section
/-!
DEFINITION. The block's formats as types (30_encoding.md R70): the 32-bit word, the optional symbol F-SYM,
the optional pulse width F-PW, the timestamp record F-TS, and an operation word with the format it is read in.
-/

namespace Sys2Proof

/-- A 32-bit word: a sample (R80), a pivot or a count at their default widths (10_state.md R28, R29). -/
abbrev Word := BitVec 32

/-- F-SYM, the optional symbol (R72): `Blank`, or `Sym(v)` with `v` in `[0, 3]`. A symbol outside 0..3 cannot be built. -/
inductive OptSym where
  | blank
  | sym (v : BitVec 2)
deriving DecidableEq, Repr

/-- F-PW, the optional pulse width (R79): the source's `None`, or `Some(ms)` in milliseconds. -/
inductive OptPw where
  | absent
  | ms (m : BitVec 9)
deriving DecidableEq, Repr

/-- F-TS, the timestamp record on the port `TS` (10_state.md R24, R71), each field at its port width. -/
structure Timestamp where
  yy       : BitVec 7
  month    : BitVec 4
  day      : BitVec 5
  weekday  : BitVec 3
  hour12   : BitVec 4
  pm       : Bool
  minute   : BitVec 6
  second   : BitVec 6
  subsecUs : BitVec 20
  ok       : Bool
deriving DecidableEq, Repr, Inhabited

/-- The format an operation word is read in (R70, R81). `eval` is F-FRAG used whole by ENC.EVAL, whose row of
spec/opcode_table.json has the same five bits as the twenty rows of F-FRAG. -/
inductive Fmt where
  | frag
  | eval
  | sym
  | pw
  | step
deriving DecidableEq, Repr

/-- How many bits a word of the format has (R70). -/
def Fmt.width : Fmt → Nat
  | .frag => 5
  | .eval => 5
  | .sym  => 3
  | .pw   => 10
  | .step => 2

/-- An operation word: a format and its code, right-aligned in the ten bits of the longest format. -/
structure OpWord where
  fmt  : Fmt
  code : BitVec 10
deriving DecidableEq, Repr

end Sys2Proof
end

