-- ==== Sys2Proof/Config.lean ====
section
/-!
DEFINITION. What is fixed at build time (00_scope.md R7, R8; 10_state.md R26) and the free values: what the spec
leaves open and no proof may know.
-/

namespace Sys2Proof.Config

/-- How many rows the symbol table of 30_encoding.md R76 has: a constant table, no parameter (10_state.md R26, R36). -/
abbrev fragRows : Nat := 20

/-- `YEAR_POLICY`: what a two-digit year above `YY_MAX` does; one policy per build (60_exceptions.md R193). -/
inductive YearPolicy where
  | fault
  | truncate
deriving DecidableEq, Repr

/-- `ARB`: which agent goes first when a wake and a sample request coincide (R202). `either` admits both orders. -/
inductive Arb where
  | either
  | updaterFirst
  | rendererFirst
deriving DecidableEq, Repr

/-- The parameters a build fixes, each default the value of R7 or R8. -/
structure Params where
  /-- `FS`, samples per second. -/
  fs : Nat := 44100
  /-- `F_NOM`, the nominal carrier in Hz. -/
  fNom : Nat := 68500
  /-- `F_DIV`, the divisor into the audible band. -/
  fDiv : Nat := 5
  /-- `PW_MS[0]` to `PW_MS[3]`, milliseconds per symbol. -/
  pw0 : BitVec 9 := 100
  pw1 : BitVec 9 := 200
  pw2 : BitVec 9 := 300
  pw3 : BitVec 9 := 400
  /-- `SLOTS`, second-slots per minute: the seconds a record may carry are those below it (40_encoder.md R101). -/
  slots : Nat := 60
  /-- `FRAG_LEN`, slots per super-frame: the modulus of the fragment index (30_encoding.md R73). -/
  fragLen : Nat := 20
  /-- `SUPERFRAMES`, super-frames A, B, C of a minute. -/
  superframes : Nat := 3
  /-- `CHANNELS`: mono, one sample for one request (R80, 42_generator.md R157). -/
  channels : Nat := 1
  /-- `ZONE`: how many hours the civil time on `TS` is ahead of UTC, applied upstream (92_eei_decisions.md D26). -/
  zoneHours : Int := 8
  /-- `A_UPD`, the placeholder sample: the binary32 pattern of 1.0 (R80). -/
  aUpd : Word := 0x3F800000
  /-- `SRC_A`, `SRC_B`, `SRC_C`, the second-range-codes (30_encoding.md R77). -/
  srcA : BitVec 2 := 0
  srcB : BitVec 2 := 1
  srcC : BitVec 2 := 3
  /-- `YY_MAX`, the largest year with defined behaviour. -/
  yyMax : Nat := 63
  /-- `CNT_W`, the width of `S.count`; at most the 32 bits State holds. -/
  cntW : Nat := 32
  /-- `PIVOT_W`, the width of `S.pivot`; at most the 32 bits State holds. -/
  pivotW : Nat := 32
  /-- `K_IDX`, added to the counter before the increment (90_conflicts.md C3). -/
  kIdx : Nat := 0
  yearPolicy : YearPolicy := .fault
  /-- No step reads it: the free environment admits both orders (log entry 1). -/
  arb : Arb := .either
  /-- `UPD_WIDTH`, a bound on the placeholders of one update; `none` is unbounded. No step reads it (R230). -/
  updWidth : Option Nat := none
deriving DecidableEq, Repr

/-- `FC`, the tone frequency in Hz: the exact quotient of R7, no integer truncated. That it is exact also where `F_DIV`
does not divide `F_NOM` is the model's reading (log entry 26); a build has no `F_DIV` of 0 (`Params.wf`). -/
def Params.fc (p : Params) : ℚ := p.fNom / p.fDiv

/-- What a build must meet for the 32-bit state to hold its registers (R28, R29, R142), for every fragment index to
select a row of the table (R76), for the super-frames to fill the minute (R23), for the one sample wire (R157), and for
`FC` and the tone's phase to exist (R7, R153). -/
abbrev Params.wf (p : Params) : Prop :=
  (0 < p.fragLen ∧ p.fragLen ≤ fragRows) ∧ p.superframes * p.fragLen = p.slots ∧ p.slots ≤ 2 ^ 6 ∧ p.channels = 1 ∧
    0 < p.fs ∧ 0 < p.fDiv ∧ p.cntW ≤ 32 ∧ p.pivotW ≤ 32 ∧ p.kIdx ≤ 1 ∧
    400 * p.fs / 1000 < 2 ^ p.pivotW ∧
    p.pw0 ≤ 400 ∧ p.pw1 ≤ 400 ∧ p.pw2 ≤ 400 ∧ p.pw3 ≤ 400

/-- The build the machine runs: every parameter at its default. -/
def build : Params := {}

/-- FREE VALUE (log entry 11): the tone sample of index `n` for the tone frequency `fc` and the rate `fs`
(42_generator.md R153), as the sign bit and the 31 magnitude bits of a binary32. A magnitude of at most that of 1.0
is the limit the spec sets (R153 property 2: finite, in [-1, 1]). -/
opaque freeTone (fc : ℚ) (fs n : Nat) : Bool × Fin 1065353217

/-- FREE VALUE (log entry 10): the second-range-code of a second outside 1 to 59 (30_encoding.md R77). -/
opaque freeSrc (second : BitVec 6) : BitVec 2

/-- FREE VALUE (log entry 10): the super-frame id of a second other than 1, 21, 41; never 3 (30_encoding.md R78). -/
opaque freeSfid (second : BitVec 6) : Fin 3

/-- What makes the block step: the sink asks for a sample (R201), the updater takes its next enabled step (R182),
or `reset` is asserted (R220). -/
inductive Event where
  | sampleReq
  | updater
  | reset
deriving DecidableEq, Repr, Inhabited

/-- What stands on the input ports during a step: the record `TS` (R24), and whether the updater's sleep ended
otherwise than by expiry (R191). -/
structure Inputs where
  ts         : Timestamp
  waitBroken : Bool
deriving DecidableEq, Repr, Inhabited

/-- An event with what stands on the input ports in its step. -/
structure Stimulus where
  event  : Event
  inputs : Inputs
deriving DecidableEq, Repr, Inhabited

/-- FREE VALUE (log entry 1): the `n`-th stimulus the world outside gives the block, where none is laid out
(00_scope.md R12: which agent steps next is fixed by no rule; R182: the timestamps are inputs). -/
opaque environment (n : Nat) : Stimulus

end Sys2Proof.Config
end

