-- ==== Sys2Proof/Syntax.lean ====
section
/-!
DEFINITION. The operations of the block: one constructor per row of spec/opcode_table.json
(30_encoding.md R76, R81, R83).
-/

namespace Sys2Proof

/-- The 27 operations. The twenty rows of the symbol table have no operand in their word: they read the record `TS`.
ENC.EVAL's word is the fragment index, PW's an optional symbol, PIVOT's an optional pulse width. -/
inductive Instr where
  | encMark
  | encSfid
  | encRsvd
  | encHourh
  | encHourl
  | encMinh
  | encMinm
  | encMinl
  | encWdh
  | encWdl
  | encChk1
  | encDayh
  | encDaym
  | encDayl
  | encMonh
  | encMonl
  | encYrh
  | encYrm
  | encYrl
  | encChk2
  | encEval (f : BitVec 5)
  | pw (s : OptSym)
  | pivot (w : OptPw)
  | rndSample
  | updArm
  | updBegin
  | updCommit
deriving DecidableEq, Repr

end Sys2Proof
end

