-- ==== Sys2Proof/WellFormed.lean ====
section
/-!
DEFINITION. Which operations can be written: the operands the formats admit (30_encoding.md R73, R79).
-/

namespace Sys2Proof

/-- The pulse widths F-PW carries: the source's `None`, or one of the four entries of `PW_MS`
(R79, 41_pulse_width.md R140). -/
def OptPw.wf : OptPw → Bool
  | .absent => true
  | .ms m => m == Config.build.pw0 || m == Config.build.pw1 || m == Config.build.pw2 || m == Config.build.pw3

/-- A well-formed operation: ENC.EVAL's fragment index is below 20, PIVOT's pulse width is one of the table's. -/
def Instr.wf : Instr → Bool
  | .encEval f => decide (f.toNat < Config.build.fragLen)
  | .pivot w => w.wf
  | .encMark | .encSfid | .encRsvd | .encHourh | .encHourl | .encMinh | .encMinm | .encMinl => true
  | .encWdh | .encWdl | .encChk1 | .encDayh | .encDaym | .encDayl | .encMonh | .encMonl => true
  | .encYrh | .encYrm | .encYrl | .encChk2 | .pw _ | .rndSample | .updArm | .updBegin | .updCommit => true

end Sys2Proof
end

