-- ==== Sys2Proof/Decode.lean ====
section
/-!
DEFINITION. Reading an operation word (30_encoding.md R70 to R81), total on every word of every format and
rejecting by name; the encoder; the host's view of the opcode table.
-/

namespace Sys2Proof

/-- Why a word is no operation. -/
inductive DecodeError where
  /-- Bits above the format's width are set. -/
  | codeTooWide
  /-- F-FRAG codes 20 to 31, unreachable (R73). -/
  | unreachableFragment
  /-- F-SYM codes 0b101, 0b110, 0b111, never produced (R72). -/
  | unproducedSymbol
  /-- F-PW with `valid = 0` and `ms` not 0 (R79: `ms` is then 0). -/
  | danglingMilliseconds
  /-- F-PW with `valid = 1` and `ms` none of 100, 200, 300, 400 (R79). -/
  | noPulseWidth
deriving DecidableEq, Repr

/-- F-FRAG as the opcode of the twenty fragment operations (R76). -/
def decodeFrag (k : Nat) : Except DecodeError Instr :=
  match k with
  | 0 => .ok .encMark
  | 1 => .ok .encSfid
  | 2 => .ok .encRsvd
  | 3 => .ok .encHourh
  | 4 => .ok .encHourl
  | 5 => .ok .encMinh
  | 6 => .ok .encMinm
  | 7 => .ok .encMinl
  | 8 => .ok .encWdh
  | 9 => .ok .encWdl
  | 10 => .ok .encChk1
  | 11 => .ok .encDayh
  | 12 => .ok .encDaym
  | 13 => .ok .encDayl
  | 14 => .ok .encMonh
  | 15 => .ok .encMonl
  | 16 => .ok .encYrh
  | 17 => .ok .encYrm
  | 18 => .ok .encYrl
  | 19 => .ok .encChk2
  | _ => .error .unreachableFragment

/-- F-FRAG used whole by ENC.EVAL (R100): the index `TS.second mod 20`. -/
def decodeEval (f : BitVec 5) : Except DecodeError Instr :=
  if f.toNat < Config.build.fragLen then .ok (.encEval f) else .error .unreachableFragment

/-- F-SYM (R72): bit 2 is `blank`, bits 1 and 0 are `v`, which is 0 where `blank` is set. -/
def decodeSym (c : BitVec 3) : Except DecodeError Instr :=
  if c.getLsbD 2 then
    if c.setWidth 2 = 0 then .ok (.pw .blank) else .error .unproducedSymbol
  else .ok (.pw (.sym (c.setWidth 2)))

/-- F-PW (R79): bit 9 is `valid`, bits 8 to 0 are `ms`, which is 0 where `valid` is clear. -/
def decodePw (c : BitVec 10) : Except DecodeError Instr :=
  if c.getLsbD 9 then
    if (OptPw.ms (c.setWidth 9)).wf then .ok (.pivot (.ms (c.setWidth 9))) else .error .noPulseWidth
  else if c.setWidth 9 = (0 : BitVec 9) then .ok (.pivot .absent) else .error .danglingMilliseconds

/-- F-STEP (R81). -/
def decodeStep (c : BitVec 2) : Instr :=
  if c = 0 then .rndSample
  else if c = 1 then .updArm
  else if c = 2 then .updBegin
  else .updCommit

/-- The operation an operation word stands for. -/
def decode (w : OpWord) : Except DecodeError Instr :=
  if w.code.toNat < 2 ^ w.fmt.width then
    match w.fmt with
    | .frag => decodeFrag w.code.toNat
    | .eval => decodeEval (w.code.setWidth 5)
    | .sym => decodeSym (w.code.setWidth 3)
    | .pw => decodePw w.code
    | .step => .ok (decodeStep (w.code.setWidth 2))
  else .error .codeTooWide

/-- `Blank` is `0b100`, `Sym(v)` is `{0, v}` (R72). -/
def OptSym.code : OptSym → BitVec 3
  | .blank => 0b100
  | .sym v => 0#1 ++ v

/-- `{valid, ms}` (R79). -/
def OptPw.code : OptPw → BitVec 10
  | .absent => 0
  | .ms m => 1#1 ++ m

/-- The operation word of an operation, from the tables of R72, R76, R79, R81. -/
def encode : Instr → OpWord
  | .encMark => ⟨.frag, 0b00000⟩
  | .encSfid => ⟨.frag, 0b00001⟩
  | .encRsvd => ⟨.frag, 0b00010⟩
  | .encHourh => ⟨.frag, 0b00011⟩
  | .encHourl => ⟨.frag, 0b00100⟩
  | .encMinh => ⟨.frag, 0b00101⟩
  | .encMinm => ⟨.frag, 0b00110⟩
  | .encMinl => ⟨.frag, 0b00111⟩
  | .encWdh => ⟨.frag, 0b01000⟩
  | .encWdl => ⟨.frag, 0b01001⟩
  | .encChk1 => ⟨.frag, 0b01010⟩
  | .encDayh => ⟨.frag, 0b01011⟩
  | .encDaym => ⟨.frag, 0b01100⟩
  | .encDayl => ⟨.frag, 0b01101⟩
  | .encMonh => ⟨.frag, 0b01110⟩
  | .encMonl => ⟨.frag, 0b01111⟩
  | .encYrh => ⟨.frag, 0b10000⟩
  | .encYrm => ⟨.frag, 0b10001⟩
  | .encYrl => ⟨.frag, 0b10010⟩
  | .encChk2 => ⟨.frag, 0b10011⟩
  | .encEval f => ⟨.eval, f.setWidth 10⟩
  | .pw s => ⟨.sym, s.code.setWidth 10⟩
  | .pivot w => ⟨.pw, w.code⟩
  | .rndSample => ⟨.step, 0b00⟩
  | .updArm => ⟨.step, 0b01⟩
  | .updBegin => ⟨.step, 0b10⟩
  | .updCommit => ⟨.step, 0b11⟩

/-- The format a table row of `nbits` bits is read in (log entry 6): by its own width where that is given (2, 3, 5,
10 bits), and by whole bytes 8 bits as F-FRAG, the block's opcode, and 16 bits as F-PW. -/
def tableFmt (nbits : Nat) : Fmt :=
  if nbits = 2 then .step
  else if nbits = 3 then .sym
  else if nbits = 10 ∨ nbits = 16 then .pw
  else .frag

/-- The operation word a table row's bits stand for, where the longest format holds them. -/
def tableWord (nbits w : Nat) : Option OpWord :=
  if w < 2 ^ 10 then some ⟨tableFmt nbits, BitVec.ofNat 10 w⟩ else none

/-- The operation the decoder reads from a row of spec/opcode_table.json. -/
def decodeTableWord (nbits w : Nat) : Option Instr :=
  match tableWord nbits w with
  | none => none
  | some o =>
    match decode o with
    | .ok i => some i
    | .error _ => none

end Sys2Proof
end

