-- ==== Sys2Proof/Machine/State.lean ====
section
/-!
DEFINITION. The state of the block as plain data (10_state.md), the reasons a step can stop, and reset
(10_state.md R37, 70_reset_and_hazards.md R220). The block has no registers beside these, no program counter and no
memory (R20, R21, R22, 20_memory.md R50).
-/

namespace Sys2Proof.Machine

/-- `UPD.phase`, the updater's control state (43_updater_handshake.md R170). -/
inductive Phase where
  | ready
  | sleeping
  | updating
  | halted
deriving DecidableEq, Repr

/-- The field a FieldOutOfRange fault names (60_exceptions.md R190, R195). -/
inductive Field where
  | month
  | day
  | weekday
  | hour12
  | minute
  | second
  | subsecUs
deriving DecidableEq, Repr

/-- The faults of the block (60_exceptions.md R190): exceptions the block TAKES, each a next state. -/
inductive BlockFault where
  | clockFault
  | fieldOutOfRange (f : Field)
  | yearOutOfRange
  | symbolInvariant
  | countOverflow
deriving DecidableEq, Repr

/-- What a step returns beside the sample: the value of a combinational operation, or the fault it raises. -/
inductive Result where
  | symbol (s : OptSym)
  | pulse (w : OptPw)
  | pivot (n : Word)
  | raised (f : BlockFault)
deriving DecidableEq, Repr

/-- What a laid-out step is caused by: an operation word of a trace (30_encoding.md R85), or an event. -/
inductive Cause where
  | op (w : OpWord)
  | event (e : Config.Event)
deriving DecidableEq, Repr

/-- One laid-out step: its cause and what stands on the input ports in it. -/
structure Slot where
  cause  : Cause
  inputs : Config.Inputs
deriving DecidableEq, Repr

/-- The state. `pivot`, `count`, `updating` are the shared state `S`; `phase`, `sleepUs` the updater's own; `fltCode`
the fault register. `ts` and `waitBroken` are what stands on the input ports in this step, `out` and `result` what the
step puts out. `script` and `tick` are the model's own: the stimuli laid out, and how many free ones were drawn. -/
structure State where
  /-- `S.pivot` (R28). -/
  pivot      : Word
  /-- `S.count` (R29). -/
  count      : Word
  /-- `S.updating` (R30). -/
  updating   : Bool
  /-- `UPD.phase` (R30, R170). -/
  phase      : Phase
  /-- `UPD.sleep_us` (R32). -/
  sleepUs    : BitVec 20
  /-- `FLT.code` (R33). -/
  fltCode    : BitVec 3
  /-- The port `TS` (R24). -/
  ts         : Timestamp
  /-- The sleep ended otherwise than by expiry (R191). -/
  waitBroken : Bool
  /-- The sample on the output wire, in the step that answers a request only (D1). -/
  out        : Option Word
  /-- What the step returned. -/
  result     : Option Result
  /-- Stimuli laid out, oldest first. -/
  script     : List Slot
  /-- Free stimuli drawn so far. -/
  tick       : Nat
deriving DecidableEq, Repr

/-- Why the model stops (the faults of the BLOCK are next states, BlockFault above). -/
inductive Fault where
  /-- Raised by UPD.ARM, UPD.BEGIN and UPD.COMMIT where `UPD.phase` does not enable the operation: no such step exists
  (R170, R179; 95_test_vectors.md U13), the machine is stuck on it. Safe: the model stops where the block has no
  transition. -/
  | notEnabled (asked : Instr) (phase : Phase)
deriving DecidableEq, Repr

/-- Why the model gives no meaning. -/
inductive Refusal where
  /-- Raised by the dispatch for an operation that has no meaning yet. Safe: nothing runs. -/
  | notModelled (mnemonic : String)
  /-- Raised by step for a laid-out word that is no operation (R72, R73, R79). Safe: no such word is produced. -/
  | illegalCode (e : DecodeError)
deriving DecidableEq, Repr

/-- The machine right after reset (R37, R220). `sleepUs`, which the spec leaves unspecified, is 0 (log entry 3); the
input ports show nothing (log entry 4); nothing is laid out and no free stimulus has been drawn (log entries 1, 2). -/
def State.reset : State where
  pivot := 0
  count := 0
  updating := false
  phase := .ready
  sleepUs := 0
  fltCode := 0
  ts := ⟨0, 0, 0, 0, 0, false, 0, 0, 0, false⟩
  waitBroken := false
  out := none
  result := none
  script := []
  tick := 0

end Sys2Proof.Machine
end

