-- ==== Sys2Proof/Machine/Operands.lean ====
section
/-!
DEFINITION. Operand forms: the windows of a field (30_encoding.md R74), the fragment index (R73), the
second-range-code and the super-frame id (R77, R78), the range checks of the record (40_encoder.md R101), and the tone
sample (42_generator.md R153).
-/

namespace Sys2Proof.Machine

/-- A top window `f >> s`, with no mask: it fits two bits where the field has at most `s + 2` (R74). -/
def topWindow {w : Nat} (f : BitVec w) (s : Nat) : BitVec 2 := (f >>> s).setWidth 2

/-- An inner window `(f >> s) & 0b11` (R74). -/
def innerWindow {w : Nat} (f : BitVec w) (s : Nat) : BitVec 2 := ((f >>> s) &&& 3#w).setWidth 2

/-- `frag = TS.second mod FRAG_LEN` (R73, R7): a row of the table for every build of at most as many slots per
super-frame as the table has rows (`Params.wf`; log entry 16). -/
def frag (p : Config.Params) (ts : Timestamp) : Fin Config.fragRows :=
  Fin.ofNat Config.fragRows (ts.second.toNat % p.fragLen)

/-- The second-range-code (R77); a free value outside 1 to 59, where the source gives none (log entry 10). -/
def srcCode (p : Config.Params) (second : BitVec 6) : BitVec 2 :=
  if 1 ≤ second ∧ second ≤ 20 then p.srcA
  else if 21 ≤ second ∧ second ≤ 40 then p.srcB
  else if 41 ≤ second ∧ second ≤ 59 then p.srcC
  else Config.freeSrc second

/-- The super-frame id (R78); a free value other than 3 at every other second (log entry 10). -/
def superFrameId (second : BitVec 6) : BitVec 2 :=
  if second = 1 then 0
  else if second = 21 then 1
  else if second = 41 then 2
  else BitVec.ofNat 2 (Config.freeSfid second).val

/-- The first field outside its documented range, in the order of 60_exceptions.md R195; `none` is `FieldsInRange`
of R101. -/
def firstBadField (p : Config.Params) (ts : Timestamp) : Option Field :=
  if ts.month < 1 ∨ 12 < ts.month then some .month
  else if ts.day < 1 then some .day
  else if ts.weekday < 1 then some .weekday
  else if ts.hour12 < 1 ∨ 12 < ts.hour12 then some .hour12
  else if 59 < ts.minute then some .minute
  else if p.slots ≤ ts.second.toNat then some .second
  else none

/-- The 32-bit float of a tone sample of index `n` (R153): the free value as a binary32 pattern. -/
def sinq (p : Config.Params) (n : Nat) : Word :=
  BitVec.ofBool (Config.freeTone p.fc p.fs n).1 ++ BitVec.ofNat 31 (Config.freeTone p.fc p.fs n).2.val

/-- `PW_MS[v]` (41_pulse_width.md R140). -/
def pulseMs (p : Config.Params) (v : BitVec 2) : BitVec 9 :=
  if v = 0 then p.pw0
  else if v = 1 then p.pw1
  else if v = 2 then p.pw2
  else p.pw3

/-- PW (R141): `Blank` has no pulse width. -/
def pulseOf (p : Config.Params) : OptSym → OptPw
  | .blank => .absent
  | .sym v => .ms (pulseMs p v)

/-- PIVOT (R142): the product first, then the truncating division, in samples. -/
def pivotOf (p : Config.Params) : OptPw → Nat
  | .absent => 0
  | .ms m => m.toNat * p.fs / 1000

/-- PIVOT in the register's 32 bits (log entry 16). -/
def pivotWord (p : Config.Params) (w : OptPw) : Word := BitVec.ofNat 32 (pivotOf p w)

/-- The sleep target `1000000 − TS.subsec_us` of an in-range `subsec_us` (43_updater_handshake.md R172). -/
def sleepTarget (subsecUs : BitVec 20) : BitVec 20 := 1000000#20 - subsecUs

end Sys2Proof.Machine
end

