-- ==== Sys2Proof/Machine/Flags.lean ====
section
/-!
DEFINITION. Population count and parity (00_scope.md R10, 40_encoder.md R124) and the one-bit flags and status of the
block (10_state.md R35).
-/

namespace Sys2Proof.Machine

/-- How many of the lowest `n` bits of a value are 1. -/
def onesBelow {w : Nat} (v : BitVec w) : Nat → Nat
  | 0 => 0
  | n + 1 => onesBelow v n + (v.getLsbD n).toNat

/-- `popcount` (R10). -/
def popcount {w : Nat} (v : BitVec w) : Nat := onesBelow v w

/-- Even parity over population counts (R10): 0 where the total is even. -/
def parity (counts : List Nat) : BitVec 1 := BitVec.ofNat 1 (counts.sum % 2)

/-- `P10`, the parity bit of fragment 10 (R113). -/
def p10 (p : Config.Params) (ts : Timestamp) : BitVec 1 :=
  parity [popcount (srcCode p ts.second), popcount ts.hour12, popcount ts.minute, popcount ts.weekday]

/-- `P19`, the parity bit of fragment 19 (R122). -/
def p19 (ts : Timestamp) : BitVec 1 :=
  parity [popcount ts.day, popcount ts.month, popcount (ts.yy &&& 0b111111#7)]

/-- The flag `blank` of an optional symbol (R35, R72). -/
def blankFlag : OptSym → Bool
  | .blank => true
  | .sym _ => false

/-- The status `MUTE` (10_state.md R33): a fault is recorded. -/
def mute (s : State) : Bool := s.fltCode != 0

end Sys2Proof.Machine
end

