-- ==== Sys2Proof/Machine/Ops.lean ====
section
/-!
DEFINITION. The named operations over the state: what a step puts out, the block's fault entry (60_exceptions.md R197),
the atomic writes of the shared state (20_memory.md R54), and reset (70_reset_and_hazards.md R220).
-/

namespace Sys2Proof.Machine

/-- The binary32 pattern of 0.0, the mute sample (30_encoding.md R80). -/
def muteSample : Word := 0x00000000

/-- A step that puts out no sample and returns nothing. -/
def silent (s : State) : State := { s with out := none, result := none }

/-- A step that answers a sample request with `v` (42_generator.md R150). -/
def answer (v : Word) (s : State) : State := { s with out := some v, result := none }

/-- A step that returns the value of a combinational operation. -/
def returning (r : Result) (s : State) : State := { s with out := none, result := some r }

/-- The code of a fault (60_exceptions.md R190). -/
def faultCode : BlockFault → BitVec 3
  | .clockFault => 1
  | .fieldOutOfRange _ => 2
  | .yearOutOfRange => 3
  | .symbolInvariant => 4
  | .countOverflow => 5

/-- Fault entry (R197), the one way an exception is taken: the first fault's code is kept, `S.updating` is cleared,
the updater halts; `S.pivot`, `S.count` and everything else stay. The step returns which fault it raised, the field's
name included (R190: a model may keep it). There is no return from a fault but reset (R198). -/
def raise (f : BlockFault) (s : State) : State :=
  { s with
    fltCode := if s.fltCode = 0 then faultCode f else s.fltCode
    updating := false
    phase := .halted
    out := none
    result := some (.raised f) }

/-- Fault entry in a step that also answers a sample request (R196: the step emits 0.0). -/
def raiseAnswering (f : BlockFault) (v : Word) (s : State) : State := { raise f s with out := some v }

/-- The IDLE path's atomic read-modify-write of `S.count` (R54, R150). -/
def countSample (s : State) : State := { s with count := s.count + 1 }

/-- UPD.ARM's writes (43_updater_handshake.md R172). -/
def armUpdater (us : BitVec 20) (s : State) : State := { silent s with sleepUs := us, phase := .sleeping }

/-- UPD.BEGIN's writes (R174): exclusive access to `S` is taken. -/
def beginUpdate (s : State) : State := { silent s with updating := true, phase := .updating }

/-- UPD.COMMIT's writes (R176): all three fields of `S` in one indivisible write, and the phase. -/
def commitPivot (v : Word) (s : State) : State :=
  { silent s with pivot := v, count := 0, updating := false, phase := .ready }

/-- What stands on the input ports in a step (10_state.md R24, R25). -/
def present (inp : Config.Inputs) (s : State) : State := { s with ts := inp.ts, waitBroken := inp.waitBroken }

/-- `reset` (70_reset_and_hazards.md R220): every piece of the block's state goes to its reset value; what lies outside
the block (the input ports, the stimuli) is not the block's to reset (log entry 15). -/
def resetBlock (s : State) : State :=
  { State.reset with ts := s.ts, waitBroken := s.waitBroken, script := s.script, tick := s.tick }

end Sys2Proof.Machine
end

