-- ==== Sys2Proof/Machine/Encoder.lean ====
section
/-!
DEFINITION. The time-code encoder ENC (40_encoder.md): the twenty fragment operations, and ENC.EVAL, which checks the
record and dispatches to them. All are functions of the record `TS` alone.
-/

namespace Sys2Proof.Machine

/-- ENC.MARK, the frame marker (R103). -/
def encMark (_p : Config.Params) (_ts : Timestamp) : OptSym := .blank

/-- ENC.SFID, the super-frame id (R104). -/
def encSfid (_p : Config.Params) (ts : Timestamp) : OptSym := .sym (superFrameId ts.second)

/-- ENC.RSVD, the reserved constant (R105). -/
def encRsvd (_p : Config.Params) (_ts : Timestamp) : OptSym := .sym 0

/-- ENC.HOURH (R106). -/
def encHourh (_p : Config.Params) (ts : Timestamp) : OptSym := .sym (topWindow ts.hour12 2)

/-- ENC.HOURL (R107). -/
def encHourl (_p : Config.Params) (ts : Timestamp) : OptSym := .sym (innerWindow ts.hour12 0)

/-- ENC.MINH (R108). -/
def encMinh (_p : Config.Params) (ts : Timestamp) : OptSym := .sym (topWindow ts.minute 4)

/-- ENC.MINM (R109). -/
def encMinm (_p : Config.Params) (ts : Timestamp) : OptSym := .sym (innerWindow ts.minute 2)

/-- ENC.MINL (R110). -/
def encMinl (_p : Config.Params) (ts : Timestamp) : OptSym := .sym (innerWindow ts.minute 0)

/-- ENC.WDH (R111). -/
def encWdh (_p : Config.Params) (ts : Timestamp) : OptSym := .sym (topWindow ts.weekday 2)

/-- ENC.WDL (R112). -/
def encWdl (_p : Config.Params) (ts : Timestamp) : OptSym := .sym (innerWindow ts.weekday 0)

/-- ENC.CHK1 (R113): bit1 is the pm flag, bit0 the parity bit. -/
def encChk1 (p : Config.Params) (ts : Timestamp) : OptSym := .sym (BitVec.ofBool ts.pm ++ p10 p ts)

/-- ENC.DAYH (R114). -/
def encDayh (_p : Config.Params) (ts : Timestamp) : OptSym := .sym (topWindow ts.day 4)

/-- ENC.DAYM (R115). -/
def encDaym (_p : Config.Params) (ts : Timestamp) : OptSym := .sym (innerWindow ts.day 2)

/-- ENC.DAYL (R116). -/
def encDayl (_p : Config.Params) (ts : Timestamp) : OptSym := .sym (innerWindow ts.day 0)

/-- ENC.MONH (R117). -/
def encMonh (_p : Config.Params) (ts : Timestamp) : OptSym := .sym (topWindow ts.month 2)

/-- ENC.MONL (R118). -/
def encMonl (_p : Config.Params) (ts : Timestamp) : OptSym := .sym (innerWindow ts.month 0)

/-- ENC.YRH (R119): masked, since the year has a seventh bit. -/
def encYrh (_p : Config.Params) (ts : Timestamp) : OptSym := .sym (innerWindow ts.yy 4)

/-- ENC.YRM (R120). -/
def encYrm (_p : Config.Params) (ts : Timestamp) : OptSym := .sym (innerWindow ts.yy 2)

/-- ENC.YRL (R121). -/
def encYrl (_p : Config.Params) (ts : Timestamp) : OptSym := .sym (innerWindow ts.yy 0)

/-- ENC.CHK2 (R122): bit1 is the year's top bit, bit0 the parity bit. -/
def encChk2 (_p : Config.Params) (ts : Timestamp) : OptSym := .sym (BitVec.ofBool (ts.yy.getLsbD 6) ++ p19 ts)

/-- The pure function `enc` (R101): the row that the fragment index selects (30_encoding.md R76). -/
def encAt (p : Config.Params) (k : Fin Config.fragRows) (ts : Timestamp) : OptSym :=
  match k with
  | 0 => encMark p ts
  | 1 => encSfid p ts
  | 2 => encRsvd p ts
  | 3 => encHourh p ts
  | 4 => encHourl p ts
  | 5 => encMinh p ts
  | 6 => encMinm p ts
  | 7 => encMinl p ts
  | 8 => encWdh p ts
  | 9 => encWdl p ts
  | 10 => encChk1 p ts
  | 11 => encDayh p ts
  | 12 => encDaym p ts
  | 13 => encDayl p ts
  | 14 => encMonh p ts
  | 15 => encMonl p ts
  | 16 => encYrh p ts
  | 17 => encYrm p ts
  | 18 => encYrl p ts
  | 19 => encChk2 p ts
  | ⟨_ + 20, h⟩ => absurd h (Nat.not_lt.mpr (Nat.le_add_left 20 _))

/-- The checks of ENC.EVAL on the whole record, in the order of 60_exceptions.md R195: the clock, the fields, the year
(which `YEAR_POLICY = truncate` lets through, R193). -/
def recordFault (p : Config.Params) (ts : Timestamp) : Option BlockFault :=
  if ts.ok = false then some .clockFault
  else
    match firstBadField p ts with
    | some f => some (.fieldOutOfRange f)
    | none =>
      match p.yearPolicy with
      | .fault => if p.yyMax < ts.yy.toNat then some .yearOutOfRange else none
      | .truncate => none

/-- ENC.EVAL (R100) as a function of the record. -/
def evalRecord (p : Config.Params) (ts : Timestamp) : Except BlockFault OptSym :=
  match recordFault p ts with
  | some f => .error f
  | none => .ok (encAt p (frag p ts) ts)

/-- A fragment operation returns its symbol and changes nothing (R126). -/
def returnSymbol (y : OptSym) (s : State) : Host.Outcome State Fault Refusal := .next (returning (.symbol y) s)

/-! The meanings of the twenty rows: each the symbol of its row (R103 to R122). -/

def execEncMark (s : State) : Host.Outcome State Fault Refusal := returnSymbol (encMark Config.build s.ts) s
def execEncSfid (s : State) : Host.Outcome State Fault Refusal := returnSymbol (encSfid Config.build s.ts) s
def execEncRsvd (s : State) : Host.Outcome State Fault Refusal := returnSymbol (encRsvd Config.build s.ts) s
def execEncHourh (s : State) : Host.Outcome State Fault Refusal := returnSymbol (encHourh Config.build s.ts) s
def execEncHourl (s : State) : Host.Outcome State Fault Refusal := returnSymbol (encHourl Config.build s.ts) s
def execEncMinh (s : State) : Host.Outcome State Fault Refusal := returnSymbol (encMinh Config.build s.ts) s
def execEncMinm (s : State) : Host.Outcome State Fault Refusal := returnSymbol (encMinm Config.build s.ts) s
def execEncMinl (s : State) : Host.Outcome State Fault Refusal := returnSymbol (encMinl Config.build s.ts) s
def execEncWdh (s : State) : Host.Outcome State Fault Refusal := returnSymbol (encWdh Config.build s.ts) s
def execEncWdl (s : State) : Host.Outcome State Fault Refusal := returnSymbol (encWdl Config.build s.ts) s
def execEncChk1 (s : State) : Host.Outcome State Fault Refusal := returnSymbol (encChk1 Config.build s.ts) s
def execEncDayh (s : State) : Host.Outcome State Fault Refusal := returnSymbol (encDayh Config.build s.ts) s
def execEncDaym (s : State) : Host.Outcome State Fault Refusal := returnSymbol (encDaym Config.build s.ts) s
def execEncDayl (s : State) : Host.Outcome State Fault Refusal := returnSymbol (encDayl Config.build s.ts) s
def execEncMonh (s : State) : Host.Outcome State Fault Refusal := returnSymbol (encMonh Config.build s.ts) s
def execEncMonl (s : State) : Host.Outcome State Fault Refusal := returnSymbol (encMonl Config.build s.ts) s
def execEncYrh (s : State) : Host.Outcome State Fault Refusal := returnSymbol (encYrh Config.build s.ts) s
def execEncYrm (s : State) : Host.Outcome State Fault Refusal := returnSymbol (encYrm Config.build s.ts) s
def execEncYrl (s : State) : Host.Outcome State Fault Refusal := returnSymbol (encYrl Config.build s.ts) s
def execEncChk2 (s : State) : Host.Outcome State Fault Refusal := returnSymbol (encChk2 Config.build s.ts) s

/-- ENC.EVAL (R100): the symbol of the record, or a fault taken. The index in the word is `TS.second mod 20` itself,
which R100 computes from the record (log entry 8). -/
def execEncEval (_f : BitVec 5) (s : State) : Host.Outcome State Fault Refusal :=
  match evalRecord Config.build s.ts with
  | .ok y => returnSymbol y s
  | .error f => .next (raise f s)

end Sys2Proof.Machine
end

