-- ==== Sys2Proof/Machine/PulseWidth.lean ====
section
/-!
DEFINITION. The envelope mapping PWM (41_pulse_width.md): PW and PIVOT, functions of their operand.
-/

namespace Sys2Proof.Machine

/-- PW (R141): total on the two-bit symbol, so SymbolInvariant is never raised (60_exceptions.md R194). -/
def execPw (y : OptSym) (s : State) : Host.Outcome State Fault Refusal :=
  .next (returning (.pulse (pulseOf Config.build y)) s)

/-- PIVOT (R142). -/
def execPivot (w : OptPw) (s : State) : Host.Outcome State Fault Refusal :=
  .next (returning (.pivot (pivotWord Config.build w)) s)

end Sys2Proof.Machine
end

