-- ==== Sys2Proof/Machine/Renderer.lean ====
section
/-!
DEFINITION. The renderer RND (42_generator.md): RND.SAMPLE, enabled in every state, with its MUTE, UPDATING and IDLE
paths.
-/

namespace Sys2Proof.Machine

/-- The sample of index `n` against the pivot (R150, R156): muted below it, the tone from it on. -/
def envelope (p : Config.Params) (pivot : Word) (n : Nat) : Word :=
  if pivot.toNat ≤ n then sinq p n else muteSample

/-- The IDLE path (R150): the count's overflow test, then the count, then the sample. -/
def sampleIdle (p : Config.Params) (s : State) : State :=
  if s.count.toNat = 2 ^ p.cntW - 1 then raiseAnswering .countOverflow muteSample s
  else answer (envelope p s.pivot (s.count.toNat + p.kIdx)) (countSample s)

/-- RND.SAMPLE under any parameters: MUTE (R152), UPDATING (R151), IDLE (R150). -/
def sample (p : Config.Params) (s : State) : State :=
  if mute s then answer muteSample s
  else if s.updating then answer p.aUpd s
  else sampleIdle p s

/-- RND.SAMPLE (R150): it always completes (20_memory.md R60). -/
def execRndSample (s : State) : Host.Outcome State Fault Refusal := .next (sample Config.build s)

end Sys2Proof.Machine
end

