-- ==== Sys2Proof/Machine/Updater.lean ====
section
/-!
DEFINITION. The updater UPD (43_updater_handshake.md): UPD.ARM, UPD.BEGIN, UPD.COMMIT, each enabled in one phase (R170).
-/

namespace Sys2Proof.Machine

/-- UPD.ARM in its phase (R172): the sleep target from the sub-second part of the record, or a fault. -/
def arm (s : State) : State :=
  if s.ts.ok = false then raise .clockFault s
  else if 999999 < s.ts.subsecUs then raise (.fieldOutOfRange .subsecUs) s
  else armUpdater (sleepTarget s.ts.subsecUs) s

/-- UPD.BEGIN in its phase (R174), or the ClockFault raised in its place where the wait was interrupted (60_exceptions.md
R191, R179's row). -/
def beginStep (s : State) : State :=
  if s.waitBroken then raise .clockFault s else beginUpdate s

/-- UPD.COMMIT in its phase (R176): encode the record, map the symbol to a pivot, replace the shared state; or a fault
of ENC.EVAL, and then nothing of `S.pivot` and `S.count` is written. -/
def commit (p : Config.Params) (s : State) : State :=
  match evalRecord p s.ts with
  | .ok y => commitPivot (pivotWord p (pulseOf p y)) s
  | .error f => raise f s

/-- UPD.ARM, enabled in READY (R172). -/
def execUpdArm (s : State) : Host.Outcome State Fault Refusal :=
  if s.phase = .ready then .next (arm s) else .fault (.notEnabled .updArm s.phase)

/-- UPD.BEGIN, enabled in SLEEPING by the wake (R174). -/
def execUpdBegin (s : State) : Host.Outcome State Fault Refusal :=
  if s.phase = .sleeping then .next (beginStep s) else .fault (.notEnabled .updBegin s.phase)

/-- UPD.COMMIT, enabled in UPDATING (R176). -/
def execUpdCommit (s : State) : Host.Outcome State Fault Refusal :=
  if s.phase = .updating then .next (commit Config.build s) else .fault (.notEnabled .updCommit s.phase)

end Sys2Proof.Machine
end

