-- ==== Sys2Proof/Machine/Dispatch.lean ====
section
/-!
DEFINITION. The dispatch: one arm per operation.
-/

namespace Sys2Proof.Machine

def exec (i : Instr) (s : State) : Host.Outcome State Fault Refusal :=
  match i with
  | .encMark => Sys2Proof.Machine.execEncMark s
  | .encSfid => Sys2Proof.Machine.execEncSfid s
  | .encRsvd => Sys2Proof.Machine.execEncRsvd s
  | .encHourh => Sys2Proof.Machine.execEncHourh s
  | .encHourl => Sys2Proof.Machine.execEncHourl s
  | .encMinh => Sys2Proof.Machine.execEncMinh s
  | .encMinm => Sys2Proof.Machine.execEncMinm s
  | .encMinl => Sys2Proof.Machine.execEncMinl s
  | .encWdh => Sys2Proof.Machine.execEncWdh s
  | .encWdl => Sys2Proof.Machine.execEncWdl s
  | .encChk1 => Sys2Proof.Machine.execEncChk1 s
  | .encDayh => Sys2Proof.Machine.execEncDayh s
  | .encDaym => Sys2Proof.Machine.execEncDaym s
  | .encDayl => Sys2Proof.Machine.execEncDayl s
  | .encMonh => Sys2Proof.Machine.execEncMonh s
  | .encMonl => Sys2Proof.Machine.execEncMonl s
  | .encYrh => Sys2Proof.Machine.execEncYrh s
  | .encYrm => Sys2Proof.Machine.execEncYrm s
  | .encYrl => Sys2Proof.Machine.execEncYrl s
  | .encChk2 => Sys2Proof.Machine.execEncChk2 s
  | .encEval f => Sys2Proof.Machine.execEncEval f s
  | .pw y => Sys2Proof.Machine.execPw y s
  | .pivot w => Sys2Proof.Machine.execPivot w s
  | .rndSample => Sys2Proof.Machine.execRndSample s
  | .updArm => Sys2Proof.Machine.execUpdArm s
  | .updBegin => Sys2Proof.Machine.execUpdBegin s
  | .updCommit => Sys2Proof.Machine.execUpdCommit s

end Sys2Proof.Machine
end

