-- ==== Sys2Proof/Machine/Events.lean ====
section
/-!
DEFINITION. What a step's cause does: an event (60_exceptions.md R200, R201, 70_reset_and_hazards.md R220) or an
operation word of a trace (30_encoding.md R85); and how a word is placed so that the next step runs it.
-/

namespace Sys2Proof.Machine

/-- The updater's next operation by its phase (43_updater_handshake.md R170, R179); none in HALTED. -/
def updaterOp : Phase → Option Instr
  | .ready => some .updArm
  | .sleeping => some .updBegin
  | .updating => some .updCommit
  | .halted => none

/-- The phase that enables an updater operation (R170). -/
def enablingPhase : Instr → Option Phase
  | .updArm => some .ready
  | .updBegin => some .sleeping
  | .updCommit => some .updating
  | _ => none

/-- An event: a request runs RND.SAMPLE, the updater takes its next operation, reset puts the block at its reset
state. A halted updater does nothing (log entry 15). -/
def runEvent (e : Config.Event) (s : State) : Host.Outcome State Fault Refusal :=
  match e with
  | .sampleReq => exec .rndSample s
  | .updater =>
    match updaterOp s.phase with
    | some i => exec i s
    | none => .next (silent s)
  | .reset => .next (resetBlock s)

/-- An operation word: the operation it decodes to, or a refusal by name. -/
def runWord (w : OpWord) (s : State) : Host.Outcome State Fault Refusal :=
  match decode w with
  | .ok i => exec i s
  | .error e => .refused (.illegalCode e)

/-- The cause of a laid-out step. -/
def runCause (c : Cause) (s : State) : Host.Outcome State Fault Refusal :=
  match c with
  | .op w => runWord w s
  | .event e => runEvent e s

/-- What causes the next step: the first laid-out stimulus, or a free one. -/
def nextCause (s : State) : Cause :=
  match s.script with
  | slot :: _ => slot.cause
  | [] => .event (Config.environment s.tick).event

/-- A step whose stimulus is laid out. -/
def stepLaidOut (slot : Slot) (rest : List Slot) (s : State) : Host.Outcome State Fault Refusal :=
  runCause slot.cause (present slot.inputs { s with script := rest })

/-- A step whose stimulus is free. -/
def stepFree (s : State) : Host.Outcome State Fault Refusal :=
  runEvent (Config.environment s.tick).event
    (present (Config.environment s.tick).inputs { s with tick := s.tick + 1 })

/-- The record as it stands with the second that selects fragment `k` (10_state.md R22: the second is what sequences
the encoder in place of a program counter). -/
def atFragment (k : BitVec 10) (ts : Timestamp) : Timestamp := { ts with second := k.setWidth 6 }

/-- The record placed with a word: a fragment code is presented at the second of that number (log entry 7). -/
def placedRecord (w : OpWord) (ts : Timestamp) : Timestamp :=
  match w.fmt with
  | .frag => atFragment w.code ts
  | .eval => atFragment w.code ts
  | _ => ts

/-- The updater in the phase that enables an operation, with the flag that goes with the phase (R30; log entry 7). -/
def placedPhase (i : Instr) (s : State) : State :=
  match enablingPhase i with
  | some ph => { s with phase := ph, updating := decide (ph = .updating) }
  | none => s

/-- A word laid out as the one next step, with all that it takes to run (log entry 7). -/
def placeWord (w : OpWord) (s : State) : State :=
  match decode w with
  | .ok i => { placedPhase i s with script := [⟨.op w, ⟨placedRecord w s.ts, false⟩⟩] }
  | .error _ => { s with script := [⟨.op w, ⟨s.ts, false⟩⟩] }

end Sys2Proof.Machine
end

