-- ==== Sys2Proof/Machine/Step.lean ====
section
/-!
DEFINITION. One step of the machine (00_scope.md R12): the stimulus laid out for it if there is one, a free one
otherwise.
-/

namespace Sys2Proof.Machine

/-- One atomic step of one agent, or a reset. -/
def step (s : State) : Host.Outcome State Fault Refusal :=
  match s.script with
  | slot :: rest => stepLaidOut slot rest s
  | [] => stepFree s

/-- The state whose very next step runs the table row's word (log entries 6 and 7); bits the longest format does not hold
make the word one that no format reads. -/
def State.withFetchWord (s : State) (nbits w : Nat) : State :=
  match tableWord nbits w with
  | some o => placeWord o s
  | none => placeWord ⟨tableFmt nbits, BitVec.allOnes 10⟩ s

end Sys2Proof.Machine
end

