-- ==== Sys2Proof/Machine/Pseudo.lean ====
section
/-!
DEFINITION. The pseudo-operations of 30_encoding.md R85, the packing of a super-frame (20_memory.md R63) and a
receiver's reassembly of the fields (30_encoding.md R75). None is an operation of the block: each is a sequence of them.
-/

namespace Sys2Proof.Machine

/-- The record with `second` replaced (R85). The port carries seconds to 63; a FRAME of a record at 60 to 63 replaces it
with more, of which the spec says nothing. The model's choice (log entry 25): such a second stands as 63, outside every
range as it is itself, and its evaluation faults. -/
def atSecond (ts : Timestamp) (second : Nat) : Timestamp := { ts with second := BitVec.ofNat 6 (min second 63) }

/-- The first second of the super-frame a record lies in (R85). -/
def frameStart (p : Config.Params) (ts : Timestamp) : Nat := ts.second.toNat - ts.second.toNat % p.fragLen

/-- FRAME: ENC.EVAL at the twenty seconds of a super-frame (R85). -/
def frame (p : Config.Params) (ts : Timestamp) : List (Except BlockFault OptSym) :=
  (List.range p.fragLen).map fun k => evalRecord p (atSecond ts (frameStart p ts + k))

/-- MINUTE: ENC.EVAL at the sixty seconds of a minute (R85). -/
def minute (p : Config.Params) (ts : Timestamp) : List (Except BlockFault OptSym) :=
  (List.range p.slots).map fun k => evalRecord p (atSecond ts k)

/-- ENCPW (R85). -/
def encPw (p : Config.Params) (ts : Timestamp) : Except BlockFault OptPw := (evalRecord p ts).map (pulseOf p)

/-- ENCPIVOT, what UPD.COMMIT stores (R85). -/
def encPivot (p : Config.Params) (ts : Timestamp) : Except BlockFault Nat := (encPw p ts).map (pivotOf p)

/-- The value a symbol carries in a packed super-frame; a blank carries no bits (20_memory.md R63). -/
def symValue : OptSym → Nat
  | .blank => 0
  | .sym v => v.toNat

/-- FRAMEWORD (R63): fragments 1 to 19, the first most significant; defined only where no evaluation faults. -/
def frameWord (p : Config.Params) (ts : Timestamp) : Except BlockFault (BitVec 38) :=
  (frame p ts).foldlM (fun acc y => y.map fun v => acc * 4 + BitVec.ofNat 38 (symValue v)) 0

/-- The fields a receiver recovers from the symbols of one super-frame, fragment by fragment (R75). -/
structure Recovered where
  hour12  : Nat
  minute  : Nat
  weekday : Nat
  day     : Nat
  month   : Nat
  yy      : Nat
  pm      : Nat
deriving DecidableEq, Repr

/-- The reassembly of R75, `s k` the symbol of fragment `k`. -/
def reassemble (s : Nat → Nat) : Recovered where
  hour12 := 4 * s 3 + s 4
  minute := 16 * s 5 + 4 * s 6 + s 7
  weekday := 4 * s 8 + s 9
  day := 16 * s 11 + 4 * s 12 + s 13
  month := 4 * s 14 + s 15
  yy := 64 * (s 19 / 2) + 16 * s 16 + 4 * s 17 + s 18
  pm := s 10 / 2

/-- The fields of a record a receiver can recover (R75: the second and its part are not transmitted). -/
def transmitted (ts : Timestamp) : Recovered where
  hour12 := ts.hour12.toNat
  minute := ts.minute.toNat
  weekday := ts.weekday.toNat
  day := ts.day.toNat
  month := ts.month.toNat
  yy := ts.yy.toNat
  pm := ts.pm.toNat

/-- The symbols of a super-frame as a receiver holds them: fragment `k` of the record's own super-frame; 0 for a blank
and for an evaluation that faults. -/
def received (p : Config.Params) (ts : Timestamp) (k : Nat) : Nat :=
  match evalRecord p (atSecond ts (frameStart p ts + k)) with
  | .ok y => symValue y
  | .error _ => 0

/-- Operations run one after another, stopping at the first that does not complete. -/
def runAll : List Instr → State → Host.Outcome State Fault Refusal
  | [], s => .next s
  | i :: rest, s =>
    match exec i s with
    | .next t => runAll rest t
    | .fault r => .fault r
    | .refused r => .refused r

/-- One line of a trace (R85): an operation of the generator, with what stands on the input ports in its step. -/
def traceLine (i : Instr) (inp : Config.Inputs) : Slot := ⟨.op (encode i), inp⟩

/-- TICK (R85): the updater's cycle for one second, each part with its own inputs, and any number of sample requests
between the parts: those of `update` fall between UPD.BEGIN and UPD.COMMIT, those of `second` between UPD.COMMIT and
UPD.ARM. -/
def tick (wake : Config.Inputs) (update : List Config.Inputs) (commit : Config.Inputs) (second : List Config.Inputs)
    (arm : Config.Inputs) : List Slot :=
  traceLine .updBegin wake :: (update.map (traceLine .rndSample) ++
    traceLine .updCommit commit :: (second.map (traceLine .rndSample) ++ [traceLine .updArm arm]))

end Sys2Proof.Machine
end

