-- ==== Sys2Proof/Safety.lean ====
section
/-!
DEFINITION. The terms claims are stated in: the domain (40_encoder.md R101), the invariant (10_state.md R31), the
observation of an execution (43_updater_handshake.md R182), the transition table (R179), and the real values behind the
samples (42_generator.md R153).
-/

namespace Sys2Proof.Safety

open Sys2Proof.Machine

/-- `FieldsInRange(TS)` (R101). -/
abbrev FieldsInRange (ts : Timestamp) : Prop :=
  (1 ≤ ts.month.toNat ∧ ts.month.toNat ≤ 12) ∧
  (1 ≤ ts.day.toNat ∧ ts.day.toNat ≤ 31) ∧
  (1 ≤ ts.weekday.toNat ∧ ts.weekday.toNat ≤ 7) ∧
  (1 ≤ ts.hour12.toNat ∧ ts.hour12.toNat ≤ 12) ∧
  ts.minute.toNat ≤ 59 ∧ ts.second.toNat ≤ 59

/-- `InDomain(TS)` (R101): the inputs for which the source defines behaviour. -/
abbrev InDomain (ts : Timestamp) : Prop :=
  ts.ok = true ∧ FieldsInRange ts ∧ ts.yy.toNat ≤ 63

/-- An operation completes, puts out no sample, returns `r` and changes nothing else: the frame of ENC, PW and PIVOT. -/
def Returns (i : Instr) (s : State) (r : Result) : Prop :=
  exec i s = .next { s with out := none, result := some r }

/-- An operation of ENC completes with the symbol of value `v`. -/
def ReturnsSym (i : Instr) (s : State) (v : Nat) : Prop :=
  Returns i s (.symbol (.sym (BitVec.ofNat 2 v)))

/-- The state after fault entry (60_exceptions.md R197), field by field: `code` is recorded if no fault was. -/
def Faulted (s : State) (code : BitVec 3) (f : BlockFault) : State :=
  { s with
    fltCode := if s.fltCode = 0 then code else s.fltCode
    updating := false
    phase := .halted
    out := none
    result := some (.raised f) }

/-- `S.pivot` holds one of the five legal values (10_state.md R28, R31 part 3). -/
abbrev LegalPivot (v : Word) : Prop :=
  v = 0 ∨ v = 4410 ∨ v = 8820 ∨ v = 13230 ∨ v = 17640

/-- The invariant of the state: R31 parts 3, 4, 5, the codes the block writes (60_exceptions.md R190, R194) and the
range of the sleep timer (43_updater_handshake.md R172). -/
abbrev BlockInv (s : State) : Prop :=
  LegalPivot s.pivot ∧
  (s.updating = true ↔ s.phase = .updating) ∧
  (s.fltCode ≠ 0 ↔ s.phase = .halted) ∧
  (s.fltCode = 0 ∨ s.fltCode = 1 ∨ s.fltCode = 2 ∨ s.fltCode = 3 ∨ s.fltCode = 5) ∧
  s.sleepUs.toNat ≤ 1000000

/-- A state no fault has been recorded in: what may count as a successful run (60_exceptions.md R197). -/
abbrev Healthy (s : State) : Prop := s.fltCode = 0

/-- The renderer is on its IDLE path (42_generator.md R150). -/
abbrev Idle (s : State) : Prop := s.fltCode = 0 ∧ s.updating = false

/-- The observation of an execution: the samples of its first `k` steps, in order (R182). -/
def observe : Nat → State → List Word
  | 0, _ => []
  | k + 1, s =>
    match step s with
    | .next t => t.out.toList ++ observe k t
    | .fault _ => []
    | .refused _ => []

/-- `k` sample requests answered one after another: the samples, and the state after. -/
def render : Nat → State → List Word × State
  | 0, s => ([], s)
  | k + 1, s =>
    match exec .rndSample s with
    | .next t => (t.out.toList ++ (render k t).1, (render k t).2)
    | .fault _ => ([], s)
    | .refused _ => ([], s)

/-- The real value of a binary32 pattern with a finite exponent (30_encoding.md R80; log entry 19). -/
def binary32 (w : Word) : ℚ :=
  (if w.getLsbD 31 then -1 else 1) *
    (if (w.extractLsb' 23 8).toNat = 0 then ((w.extractLsb' 0 23).toNat : ℚ) / 2 ^ 149
     else ((2 ^ 23 + (w.extractLsb' 0 23).toNat : Nat) : ℚ) * 2 ^ (w.extractLsb' 23 8).toNat / 2 ^ 150)

/-- The pattern is neither an infinity nor a NaN (R80). -/
abbrev Finite32 (w : Word) : Prop := w.extractLsb' 23 8 ≠ 255

/-- `x` is the ideal value `s(n)` of the tone sample of index `n` (42_generator.md R153). -/
def IsIdealTone (p : Config.Params) (n : Nat) (x : ℝ) : Prop :=
  x = Real.sin (2 * Real.pi * (p.fc : ℝ) * n / p.fs)

/-- Property 3 of R153 with the bound `eps` for `SIN_EPS`, which the spec leaves open: a premise, never assumed. -/
def SinqWithin (p : Config.Params) (eps : ℝ) : Prop :=
  ∀ n x, IsIdealTone p n x → |((binary32 (sinq p n) : ℚ) : ℝ) - x| ≤ eps

/-- Civil time as the clock source's contract speaks of it (60_exceptions.md R206): calendar year, 24-hour clock,
weekday 1 = Monday to 7 = Sunday, elapsed microseconds of the second, in the zone `offsetHours` ahead of UTC. It is no
part of the block. -/
structure CivilTime where
  year    : Nat
  month   : Nat
  day     : Nat
  weekday : Nat
  hour    : Nat
  minute  : Nat
  second  : Nat
  micro   : Nat
  offsetHours : Int
deriving DecidableEq, Repr

/-- The ranges of civil time, leap seconds left out (R6). -/
abbrev CivilTime.valid (c : CivilTime) : Prop :=
  (1 ≤ c.month ∧ c.month ≤ 12) ∧ (1 ≤ c.day ∧ c.day ≤ 31) ∧ (1 ≤ c.weekday ∧ c.weekday ≤ 7) ∧
  c.hour ≤ 23 ∧ c.minute ≤ 59 ∧ c.second ≤ 59 ∧ c.micro ≤ 999999

/-- Duties 1 and 3 to 7 of R206, on one reading: every field of the record is of the one civil time `c`, which is in the
zone of the build; `ok = 0` for a year `TS.yy` cannot hold; hours 0 and 12 are 12 AM and 12 PM (log entry 20). -/
abbrev Presents (p : Config.Params) (c : CivilTime) (ts : Timestamp) : Prop :=
  c.offsetHours = p.zoneHours ∧
  (ts.ok = true ↔ 2000 ≤ c.year ∧ c.year ≤ 2127) ∧
  (ts.ok = true →
    ts.yy.toNat = c.year - 2000 ∧ ts.month.toNat = c.month ∧ ts.day.toNat = c.day ∧ ts.weekday.toNat = c.weekday ∧
    ts.hour12.toNat = (if c.hour % 12 = 0 then 12 else c.hour % 12) ∧ (ts.pm = true ↔ 12 ≤ c.hour) ∧
    ts.minute.toNat = c.minute ∧ ts.second.toNat = c.second ∧ ts.subsecUs.toNat = c.micro)

/-- A place on the time line: valid civil times of one zone are in order exactly as these numbers are. -/
def CivilTime.stamp (c : CivilTime) : Nat :=
  (((((c.year * 13 + c.month) * 32 + c.day) * 24 + c.hour) * 60 + c.minute) * 60 + c.second) * 1000000 + c.micro

/-- How many days a month has (the Gregorian calendar, log entry 23). -/
def daysInMonth (year month : Nat) : Nat :=
  if month = 2 then if year % 4 = 0 ∧ (year % 100 ≠ 0 ∨ year % 400 = 0) then 29 else 28
  else if month = 4 ∨ month = 6 ∨ month = 9 ∨ month = 11 then 30
  else 31

/-- The calendar day after (log entry 23). -/
def CivilTime.nextDay (c : CivilTime) : CivilTime :=
  if c.day < daysInMonth c.year c.month then { c with day := c.day + 1, weekday := c.weekday % 7 + 1 }
  else if c.month < 12 then { c with month := c.month + 1, day := 1, weekday := c.weekday % 7 + 1 }
  else { c with year := c.year + 1, month := 1, day := 1, weekday := c.weekday % 7 + 1 }

/-- The whole second that begins next (10_state.md R23: 59 is followed by 0, and the other fields change as civil time
requires). -/
def CivilTime.nextSecond (c : CivilTime) : CivilTime :=
  if c.second < 59 then { c with second := c.second + 1, micro := 0 }
  else if c.minute < 59 then { c with minute := c.minute + 1, second := 0, micro := 0 }
  else if c.hour < 23 then { c with hour := c.hour + 1, minute := 0, second := 0, micro := 0 }
  else { c.nextDay with hour := 0, minute := 0, second := 0, micro := 0 }

/-- One reading of the clock: the civil time it was taken at, the record presented, and whether UPD.COMMIT took it
(UPD.ARM otherwise; the block reads the clock in these two alone, 43_updater_handshake.md R180). -/
structure Reading where
  civil    : CivilTime
  record   : Timestamp
  atCommit : Bool
deriving DecidableEq, Repr

/-- Duty 2 of R206: successive readings are non-decreasing in civil time. -/
abbrev NonDecreasing (rs : List Reading) : Prop := rs.Pairwise fun a b => a.civil.stamp ≤ b.civil.stamp

/-- Duty 8 of R206 on two successive readings: a reading UPD.COMMIT takes is in the second that has just begun, the one
after the second of UPD.ARM's reading before it (its part of the second is free). -/
abbrev ReadsNewSecond (a b : Reading) : Prop :=
  b.atCommit = true → { b.civil with micro := 0 } = a.civil.nextSecond

/-- The clock source's contract (R206), duties 1 to 8, on the readings of an execution in order: a premise of claims,
never a part of the machine. -/
structure ClockContract (p : Config.Params) (rs : List Reading) : Prop where
  /-- Duties 1 and 3 to 7. -/
  presents : ∀ r ∈ rs, r.civil.valid ∧ Presents p r.civil r.record
  /-- Duty 2. -/
  ordered : NonDecreasing rs
  /-- Duty 8. -/
  fresh : rs.IsChain ReadsNewSecond

/-- The operation the next step runs. -/
def nextOperation (s : State) : Option Instr :=
  match nextCause s with
  | .op w => (decode w).toOption
  | .event .sampleReq => some .rndSample
  | .event .updater => updaterOp s.phase
  | .event .reset => none

/-- The records the updater reads in the first `k` steps from `s`, in order, each with whether UPD.COMMIT took it. -/
def recordsRead : Nat → State → List (Timestamp × Bool)
  | 0, _ => []
  | k + 1, s =>
    match step s with
    | .next t =>
      match nextOperation s with
      | some .updArm => (t.ts, false) :: recordsRead k t
      | some .updCommit => (t.ts, true) :: recordsRead k t
      | _ => recordsRead k t
    | .fault _ => []
    | .refused _ => []

/-- The first `k` steps from `s` keep the clock's contract: some civil times bear out the records read. -/
def KeepsClockContract (p : Config.Params) (k : Nat) (s : State) : Prop :=
  ∃ rs : List Reading, rs.map (fun r => (r.record, r.atCommit)) = recordsRead k s ∧ ClockContract p rs

/-- The states that come after `s` by steps that are no reset. -/
inductive Later (s : State) : State → Prop where
  | now : Later s s
  | step {u v : State} (before : Later s u) (noReset : nextCause u ≠ .event .reset) (next : Machine.step u = .next v) :
      Later s v

/-- The rows of the transition table (43_updater_handshake.md R179) from `s` to `t` under an event; what a row does not
name is unchanged. -/
inductive Row (s : State) : Config.Event → State → Prop where
  | arm (us : BitVec 20) (hp : s.phase = .ready) (hok : s.ts.ok = true)
      (hus : us.toNat + s.ts.subsecUs.toNat = 1000000) :
      Row s .updater { s with phase := .sleeping, sleepUs := us, out := none, result := none }
  | wake (hp : s.phase = .sleeping) (hw : s.waitBroken = false) :
      Row s .updater { s with phase := .updating, updating := true, out := none, result := none }
  | commit (n : Nat) (hp : s.phase = .updating) (hn : encPivot Config.build s.ts = .ok n) :
      Row s .updater
        { s with phase := .ready, pivot := BitVec.ofNat 32 n, count := 0, updating := false, out := none, result := none }
  | commitFault (f : BlockFault) (hp : s.phase = .updating) (hn : encPivot Config.build s.ts = .error f) :
      Row s .updater
        { s with phase := .halted, fltCode := faultCode f, updating := false, out := none, result := some (.raised f) }
  | armClockFault (hp : s.phase = .ready) (hok : s.ts.ok = false) :
      Row s .updater
        { s with phase := .halted, fltCode := 1, updating := false, out := none, result := some (.raised .clockFault) }
  | armFieldFault (hp : s.phase = .ready) (hok : s.ts.ok = true) (hus : 999999 < s.ts.subsecUs.toNat) :
      Row s .updater
        { s with phase := .halted, fltCode := 2, updating := false, out := none,
                 result := some (.raised (.fieldOutOfRange .subsecUs)) }
  | waitInterrupted (hp : s.phase = .sleeping) (hw : s.waitBroken = true) :
      Row s .updater
        { s with phase := .halted, fltCode := 1, updating := false, out := none, result := some (.raised .clockFault) }
  | haltedUpdater (hp : s.phase = .halted) : Row s .updater { s with out := none, result := none }
  | muteOrTone (v : Word) (hp : s.phase = .ready ∨ s.phase = .sleeping) (hc : s.count.toNat < 4294967295)
      (hv : v = 0 ∧ s.count.toNat < s.pivot.toNat ∨
        v = sinq Config.build s.count.toNat ∧ s.pivot.toNat ≤ s.count.toNat) :
      Row s .sampleReq { s with count := s.count + 1, out := some v, result := none }
  | placeholder (hp : s.phase = .updating) : Row s .sampleReq { s with out := some 0x3F800000, result := none }
  | muted (hp : s.phase = .halted) : Row s .sampleReq { s with out := some 0, result := none }
  | countOverflow (hp : s.phase = .ready ∨ s.phase = .sleeping) (hc : s.count.toNat = 4294967295) :
      Row s .sampleReq
        { s with phase := .halted, fltCode := 5, updating := false, out := some 0, result := some (.raised .countOverflow) }

end Sys2Proof.Safety
end

