-- ==== Sys2Proof/Certificates/Slice0/Obligations.lean ====
section
/-!
DEFINITION. The statements for the provers, from the numbered rules of spec/.
-/

open Sys2Proof Sys2Proof.Machine Sys2Proof.Safety

/-! ## Encoding -/

/-- Every well-formed operation's word decodes to it: no bit of an encoding is dropped (R72, R73, R76, R79, R81). -/
def Obligations.DecodeOfEncode : Prop :=
  ∀ i : Instr, i.wf = true → decode (encode i) = .ok i

/-- Every word that decodes is the word of the well-formed operation it decodes to: each word has one meaning. -/
def Obligations.EncodeOfDecode : Prop :=
  ∀ (w : OpWord) (i : Instr), decode w = .ok i → i.wf = true ∧ encode i = w

/-- The words that are no operation, format by format: F-FRAG from 20 (R73), F-SYM from `0b101` (R72), F-PW but for
`None` and the four pulse widths (R79: 512 is the bit `valid`), F-STEP beyond two bits (R81). The spec says that these
codes are never produced; that a word carries ten bits for every format is the model's choice (log entry 6), and that such
a word is rejected is the model's reading (log entry 21). -/
def Obligations.WordsRejected : Prop :=
  ∀ w : OpWord, (∃ e, decode w = .error e) ↔
    match w.fmt with
    | .frag => 20 ≤ w.code.toNat
    | .eval => 20 ≤ w.code.toNat
    | .sym => 5 ≤ w.code.toNat
    | .pw => ¬ (w.code.toNat = 0 ∨ w.code.toNat = 512 + 100 ∨ w.code.toNat = 512 + 200 ∨
        w.code.toNat = 512 + 300 ∨ w.code.toNat = 512 + 400)
    | .step => 4 ≤ w.code.toNat

/-- Words written out from the tables of R72, R76, R79 and R81 decode to the operations they stand for. -/
def Obligations.WrittenWordsDecode : Prop :=
  decode ⟨.frag, 0b0000001010⟩ = .ok .encChk1 ∧ decode ⟨.frag, 0b0000010011⟩ = .ok .encChk2 ∧
  decode ⟨.eval, 0b0000010011⟩ = .ok (.encEval 19) ∧ decode ⟨.sym, 0b0000000100⟩ = .ok (.pw .blank) ∧
  decode ⟨.sym, 0b0000000010⟩ = .ok (.pw (.sym 2)) ∧ decode ⟨.pw, 0b1100101100⟩ = .ok (.pivot (.ms 300)) ∧
  decode ⟨.step, 0b0000000000⟩ = .ok .rndSample ∧ decode ⟨.step, 0b0000000011⟩ = .ok .updCommit

/-! ## Stepping -/

/-- A step whose laid-out word decodes runs that operation, on the state in which the word is taken from the script and
its inputs stand on the ports; nothing else is added around the operation. -/
def Obligations.StepRunsDecodedWord : Prop :=
  ∀ (s : State) (w : OpWord) (inp : Config.Inputs) (rest : List Slot) (i : Instr),
    s.script = ⟨.op w, inp⟩ :: rest → decode w = .ok i →
    step s = exec i { s with script := rest, ts := inp.ts, waitBroken := inp.waitBroken }

/-- A step whose laid-out stimulus is an event: a request runs RND.SAMPLE (R201), the updater runs the operation its
phase enables (R170), reset gives every piece of the block its reset value (R220). That a halted updater does nothing is
the model's reading (log entry 15). -/
def Obligations.StepRunsEvent : Prop :=
  ∀ (s : State) (e : Config.Event) (inp : Config.Inputs) (rest : List Slot), s.script = ⟨.event e, inp⟩ :: rest →
    step s =
      match e with
      | .sampleReq => exec .rndSample { s with script := rest, ts := inp.ts, waitBroken := inp.waitBroken }
      | .updater =>
        match s.phase with
        | .ready => exec .updArm { s with script := rest, ts := inp.ts, waitBroken := inp.waitBroken }
        | .sleeping => exec .updBegin { s with script := rest, ts := inp.ts, waitBroken := inp.waitBroken }
        | .updating => exec .updCommit { s with script := rest, ts := inp.ts, waitBroken := inp.waitBroken }
        | .halted =>
          .next { s with script := rest, ts := inp.ts, waitBroken := inp.waitBroken, out := none, result := none }
      | .reset => .next
          { pivot := 0, count := 0, updating := false, phase := .ready, sleepUs := 0, fltCode := 0, ts := inp.ts,
            waitBroken := inp.waitBroken, out := none, result := none, script := rest, tick := s.tick }

/-- With nothing laid out, whatever the world outside does, the block takes a step: it never stops by itself, and it
uses up one free stimulus (log entry 1). -/
def Obligations.FreeStepCompletes : Prop :=
  ∀ s : State, s.script = [] → ∃ t, step s = .next t ∧ t.script = [] ∧ t.tick = s.tick + 1

/-- A placed table word is what the very next step runs, on a state that keeps the block's registers but for what
placing changes (log entries 6 and 7): the phase and its flag for the updater's operations, nothing for the others. -/
def Obligations.PlacedWordRuns : Prop :=
  ∀ (s : State) (nbits w : Nat) (i : Instr), decodeTableWord nbits w = some i →
    ∃ u : State, step (s.withFetchWord nbits w) = exec i u ∧ u.script = [] ∧ u.pivot = s.pivot ∧ u.count = s.count ∧
      u.sleepUs = s.sleepUs ∧ u.fltCode = s.fltCode ∧ u.tick = s.tick ∧
      (∀ ph, enablingPhase i = some ph → u.phase = ph ∧ (u.updating = true ↔ ph = .updating)) ∧
      (enablingPhase i = none → u.phase = s.phase ∧ u.updating = s.updating)

/-! ## The encoder -/

/-- ENC.MARK returns blank and changes nothing (R103); inside the domain ENC.EVAL returns blank exactly at seconds 0, 20
and 40. -/
def Obligations.FrameMarkerBlank : Prop :=
  ∀ s : State, Returns .encMark s (.symbol .blank) ∧
    (InDomain s.ts → ∀ f, Returns (.encEval f) s (.symbol .blank) ↔
      s.ts.second = 0 ∨ s.ts.second = 20 ∨ s.ts.second = 40)

/-- ENC.SFID returns 0, 1, 2 at the absolute seconds 1, 21, 41, and returns 3 at none (R104, R78). -/
def Obligations.SuperFrameIdRow : Prop :=
  ∀ s : State,
    (s.ts.second = 1 → ReturnsSym .encSfid s 0) ∧
    (s.ts.second = 21 → ReturnsSym .encSfid s 1) ∧
    (s.ts.second = 41 → ReturnsSym .encSfid s 2) ∧
    ¬ ReturnsSym .encSfid s 3

/-- ENC.RSVD returns the constant 0 (R105). -/
def Obligations.ReservedRowZero : Prop :=
  ∀ s : State, ReturnsSym .encRsvd s 0

/-- ENC.HOURH and ENC.HOURL return the two windows of `hour12` (R106, R107). -/
def Obligations.HourWindows : Prop :=
  ∀ s : State, ReturnsSym .encHourh s (s.ts.hour12.toNat / 4) ∧ s.ts.hour12.toNat / 4 ≤ 3 ∧
    ReturnsSym .encHourl s (s.ts.hour12.toNat % 4)

/-- ENC.MINH, ENC.MINM and ENC.MINL return the three windows of `minute` (R108, R109, R110). -/
def Obligations.MinuteWindows : Prop :=
  ∀ s : State, ReturnsSym .encMinh s (s.ts.minute.toNat / 16) ∧ s.ts.minute.toNat / 16 ≤ 3 ∧
    ReturnsSym .encMinm s (s.ts.minute.toNat / 4 % 4) ∧ ReturnsSym .encMinl s (s.ts.minute.toNat % 4)

/-- ENC.WDH and ENC.WDL return the two windows of `weekday`; the high one is at most 1 (R111, R112). -/
def Obligations.WeekdayWindows : Prop :=
  ∀ s : State, ReturnsSym .encWdh s (s.ts.weekday.toNat / 4) ∧ s.ts.weekday.toNat / 4 ≤ 1 ∧
    ReturnsSym .encWdl s (s.ts.weekday.toNat % 4)

/-- ENC.DAYH, ENC.DAYM and ENC.DAYL return the three windows of `day`; the high one is at most 1 (R114 to R116). -/
def Obligations.DayWindows : Prop :=
  ∀ s : State, ReturnsSym .encDayh s (s.ts.day.toNat / 16) ∧ s.ts.day.toNat / 16 ≤ 1 ∧
    ReturnsSym .encDaym s (s.ts.day.toNat / 4 % 4) ∧ ReturnsSym .encDayl s (s.ts.day.toNat % 4)

/-- ENC.MONH and ENC.MONL return the two windows of `month` (R117, R118). -/
def Obligations.MonthWindows : Prop :=
  ∀ s : State, ReturnsSym .encMonh s (s.ts.month.toNat / 4) ∧ s.ts.month.toNat / 4 ≤ 3 ∧
    ReturnsSym .encMonl s (s.ts.month.toNat % 4)

/-- ENC.YRH, ENC.YRM and ENC.YRL return the three windows of the year's low six bits (R119, R120, R121). -/
def Obligations.YearWindows : Prop :=
  ∀ s : State, ReturnsSym .encYrh s (s.ts.yy.toNat / 16 % 4) ∧ ReturnsSym .encYrm s (s.ts.yy.toNat / 4 % 4) ∧
    ReturnsSym .encYrl s (s.ts.yy.toNat % 4)

/-- `popcount` is the number of 1 bits (R10). -/
def Obligations.PopcountCountsOnes : Prop :=
  ∀ (w : Nat) (v : BitVec w), popcount v = (Finset.univ.filter fun k : Fin w => v.getLsbD k = true).card

/-- ENC.CHK1 returns the pm flag over the parity of the second-range-code, the hour, the minute and the weekday, with
the code 0, 1, 3 on the three ranges of seconds (R113, R77). -/
def Obligations.CheckRowOne : Prop :=
  ∀ (s : State) (c : BitVec 2),
    1 ≤ s.ts.second.toNat ∧ s.ts.second.toNat ≤ 20 ∧ c = 0 ∨
      21 ≤ s.ts.second.toNat ∧ s.ts.second.toNat ≤ 40 ∧ c = 1 ∨
      41 ≤ s.ts.second.toNat ∧ s.ts.second.toNat ≤ 59 ∧ c = 3 →
    ReturnsSym .encChk1 s
      (2 * s.ts.pm.toNat + (popcount c + popcount s.ts.hour12 + popcount s.ts.minute + popcount s.ts.weekday) % 2)

/-- The two rows that read the absolute second complete at every second the port carries. Where the spec gives no
super-frame id and no second-range-code, that one value is free (log entry 10), and the rest is as the rows say: the id
is below 3, and the pm flag stands over the check bit. -/
def Obligations.OpenSecondsComplete : Prop :=
  ∀ s : State, (∃ v, v < 3 ∧ ReturnsSym .encSfid s v) ∧ ∃ b, b < 2 ∧ ReturnsSym .encChk1 s (2 * s.ts.pm.toNat + b)

/-- ENC.CHK2 returns the year's top bit over the parity of the day, the month and the year's low six bits (R122). -/
def Obligations.CheckRowTwo : Prop :=
  ∀ s : State, ReturnsSym .encChk2 s
    (2 * (s.ts.yy.toNat / 64) +
      (popcount s.ts.day + popcount s.ts.month + popcount (BitVec.ofNat 6 s.ts.yy.toNat)) % 2)

/-- Inside the domain ENC.EVAL does what the row of `TS.second mod 20` does, and that row completes (R100, R76). -/
def Obligations.EvalDispatchesOnSecond : Prop :=
  ∀ (s : State) (f : BitVec 5) (i : Instr), InDomain s.ts →
    decode ⟨.frag, BitVec.ofNat 10 (s.ts.second.toNat % 20)⟩ = .ok i →
    exec (.encEval f) s = exec i s ∧ ∃ y, Returns (.encEval f) s (.symbol y)

/-- ENC.EVAL takes the first fault that applies, in the order clock, month, day, weekday, hour, minute, second, year
(R195), on the whole record whatever the fragment is (R100, R192, R193), and otherwise none. That an ENC.EVAL which is no
part of UPD.COMMIT takes its fault by fault entry is the model's reading (log entry 12). -/
def Obligations.EvalFaultPriority : Prop :=
  ∀ (s : State) (f : BitVec 5),
    if s.ts.ok = false then exec (.encEval f) s = .next (Faulted s 1 .clockFault)
    else if s.ts.month.toNat < 1 ∨ 12 < s.ts.month.toNat then
      exec (.encEval f) s = .next (Faulted s 2 (.fieldOutOfRange .month))
    else if s.ts.day.toNat < 1 ∨ 31 < s.ts.day.toNat then
      exec (.encEval f) s = .next (Faulted s 2 (.fieldOutOfRange .day))
    else if s.ts.weekday.toNat < 1 ∨ 7 < s.ts.weekday.toNat then
      exec (.encEval f) s = .next (Faulted s 2 (.fieldOutOfRange .weekday))
    else if s.ts.hour12.toNat < 1 ∨ 12 < s.ts.hour12.toNat then
      exec (.encEval f) s = .next (Faulted s 2 (.fieldOutOfRange .hour12))
    else if 59 < s.ts.minute.toNat then exec (.encEval f) s = .next (Faulted s 2 (.fieldOutOfRange .minute))
    else if 59 < s.ts.second.toNat then exec (.encEval f) s = .next (Faulted s 2 (.fieldOutOfRange .second))
    else if 63 < s.ts.yy.toNat then exec (.encEval f) s = .next (Faulted s 3 .yearOutOfRange)
    else ∃ y, Returns (.encEval f) s (.symbol y)

/-- A build that truncates the year gives the formula values on the 7-bit year where the default build faults (R193). -/
def Obligations.TruncatingBuildEncodesYear : Prop :=
  ∀ ts : Timestamp, ts.ok = true → FieldsInRange ts →
    evalRecord { Config.build with yearPolicy := .truncate } ts = .ok (encAt Config.build (frag Config.build ts) ts) ∧
    (63 < ts.yy.toNat → evalRecord Config.build ts = .error .yearOutOfRange)

/-- What the years of a reading that keeps the clock's contract come to (R206, R193, R191): 2000 to 2063 are encoded,
2064 to 2127 are a YearOutOfRange, all others a ClockFault. That a bare ENC.EVAL takes these by fault entry is the model's
reading (log entry 12), and the hours 0 and 12 follow the usual convention (log entry 20). -/
def Obligations.ContractYears : Prop :=
  ∀ (c : CivilTime) (s : State) (f : BitVec 5), c.valid → Presents Config.build c s.ts →
    (2000 ≤ c.year ∧ c.year ≤ 2063 → InDomain s.ts ∧ ∃ y, Returns (.encEval f) s (.symbol y)) ∧
    (2064 ≤ c.year ∧ c.year ≤ 2127 → exec (.encEval f) s = .next (Faulted s 3 .yearOutOfRange)) ∧
    (c.year < 2000 ∨ 2127 < c.year → exec (.encEval f) s = .next (Faulted s 1 .clockFault))

/-- Losslessness: for every record of the domain a receiver recovers every transmitted field from the symbols of the
super-frame (R125, R75); and under the truncating policy for every 7-bit year. -/
def Obligations.FieldsRecoveredFromFrame : Prop :=
  (∀ ts : Timestamp, InDomain ts → reassemble (received Config.build ts) = transmitted ts) ∧
  ∀ ts : Timestamp, ts.ok = true → FieldsInRange ts →
    reassemble (received { Config.build with yearPolicy := .truncate } ts) = transmitted ts

/-- The parity of population counts is the parity of the population count of the exclusive-or (R124). -/
def Obligations.ParityIsXorParity : Prop :=
  ∀ (c : BitVec 2) (h : BitVec 4) (m : BitVec 6) (d : BitVec 3),
    (parity [popcount c, popcount h, popcount m, popcount d]).toNat =
      popcount (c.setWidth 6 ^^^ h.setWidth 6 ^^^ m ^^^ d.setWidth 6) % 2

/-- Flipping any one bit of the second-range-code (the code of each range of seconds, a parameter of the build), of the
hour, the minute or the weekday flips `P10`, and of the day, the month or the year's low six bits flips `P19` (R124). -/
def Obligations.OneBitFlipsParity : Prop :=
  ∀ ts : Timestamp,
    (∀ k, k < 2 → 1 ≤ ts.second.toNat ∧ ts.second.toNat ≤ 20 →
      p10 { Config.build with srcA := Config.build.srcA ^^^ BitVec.twoPow 2 k } ts ≠ p10 Config.build ts) ∧
    (∀ k, k < 2 → 21 ≤ ts.second.toNat ∧ ts.second.toNat ≤ 40 →
      p10 { Config.build with srcB := Config.build.srcB ^^^ BitVec.twoPow 2 k } ts ≠ p10 Config.build ts) ∧
    (∀ k, k < 2 → 41 ≤ ts.second.toNat ∧ ts.second.toNat ≤ 59 →
      p10 { Config.build with srcC := Config.build.srcC ^^^ BitVec.twoPow 2 k } ts ≠ p10 Config.build ts) ∧
    (∀ k, k < 4 → p10 Config.build { ts with hour12 := ts.hour12 ^^^ BitVec.twoPow 4 k } ≠ p10 Config.build ts) ∧
    (∀ k, k < 6 → p10 Config.build { ts with minute := ts.minute ^^^ BitVec.twoPow 6 k } ≠ p10 Config.build ts) ∧
    (∀ k, k < 3 → p10 Config.build { ts with weekday := ts.weekday ^^^ BitVec.twoPow 3 k } ≠ p10 Config.build ts) ∧
    (∀ k, k < 5 → p19 { ts with day := ts.day ^^^ BitVec.twoPow 5 k } ≠ p19 ts) ∧
    (∀ k, k < 4 → p19 { ts with month := ts.month ^^^ BitVec.twoPow 4 k } ≠ p19 ts) ∧
    (∀ k, k < 6 → p19 { ts with yy := ts.yy ^^^ BitVec.twoPow 7 k } ≠ p19 ts)

/-- ENC.EVAL is a pure function of the eight fields: two states whose records agree on them, whatever else they hold
(the part of the second, the word's index, every register), return the same symbol and change nothing (R126). -/
def Obligations.EvalIsPure : Prop :=
  ∀ (s u : State) (f g : BitVec 5), InDomain s.ts → u.ts = { s.ts with subsecUs := u.ts.subsecUs } →
    ∃ y, Returns (.encEval f) s (.symbol y) ∧ Returns (.encEval g) u (.symbol y)

/-- Within a minute the symbols at seconds `k`, `k + 20` and `k + 40` are equal for every fragment but 1 and 10, and
exist (R127). -/
def Obligations.SuperFramesRepeat : Prop :=
  ∀ (ts : Timestamp) (k : Nat), InDomain ts → k < 20 → k ≠ 1 → k ≠ 10 →
    ∃ y, evalRecord Config.build (atSecond ts k) = .ok y ∧
      evalRecord Config.build (atSecond ts (k + 20)) = .ok y ∧
      evalRecord Config.build (atSecond ts (k + 40)) = .ok y

/-- Within a minute `P10` at second 30 is the complement of that at second 10, and that at second 50 equals it (R113). -/
def Obligations.CheckBitAcrossMinute : Prop :=
  ∀ ts : Timestamp,
    p10 Config.build (atSecond ts 30) ≠ p10 Config.build (atSecond ts 10) ∧
    p10 Config.build (atSecond ts 50) = p10 Config.build (atSecond ts 10)

/-- Which pulse widths each fragment can carry in the domain: none at fragment 0; 100, 200, 300 ms at 1; 100 ms at 2;
100 or 200 ms at 8, 11 and 19; and 400 ms only at 3 to 7, 9, 10 and 12 to 18 (R144). -/
def Obligations.PulseWidthsByFragment : Prop :=
  ∀ ts : Timestamp, InDomain ts → ∃ w, encPw Config.build ts = .ok w ∧
    (ts.second.toNat % 20 = 0 ↔ w = .absent) ∧
    (ts.second.toNat % 20 = 1 → w = .ms 100 ∨ w = .ms 200 ∨ w = .ms 300) ∧
    (ts.second.toNat % 20 = 2 → w = .ms 100) ∧
    (ts.second.toNat % 20 = 8 ∨ ts.second.toNat % 20 = 11 ∨ ts.second.toNat % 20 = 19 → w = .ms 100 ∨ w = .ms 200) ∧
    (w = .ms 400 → 3 ≤ ts.second.toNat % 20 ∧ ts.second.toNat % 20 ≤ 18 ∧
      ts.second.toNat % 20 ≠ 8 ∧ ts.second.toNat % 20 ≠ 11)

/-! ## The envelope mapping -/

/-- PW returns no pulse width for a blank and 100, 200, 300, 400 ms for the four symbols (R140, R141). -/
def Obligations.PulseWidthOfSymbol : Prop :=
  ∀ s : State, Returns (.pw .blank) s (.pulse .absent) ∧
    ∀ v : BitVec 2, Returns (.pw (.sym v)) s (.pulse (.ms (BitVec.ofNat 9 (100 * (v.toNat + 1)))))

/-- PIVOT returns 0 for no pulse width and `floor(ms · FS / 1000)` otherwise, which for the table's four is 4410, 8820,
13230, 17640; and under any rate it is that quotient, the product taken first (R142). -/
def Obligations.PivotOfPulseWidth : Prop :=
  (∀ s : State, Returns (.pivot .absent) s (.pivot 0) ∧
    (∀ m : BitVec 9, Returns (.pivot (.ms m)) s (.pivot (BitVec.ofNat 32 (m.toNat * 44100 / 1000)))) ∧
    Returns (.pivot (.ms 100)) s (.pivot 4410) ∧ Returns (.pivot (.ms 200)) s (.pivot 8820) ∧
    Returns (.pivot (.ms 300)) s (.pivot 13230) ∧ Returns (.pivot (.ms 400)) s (.pivot 17640)) ∧
  ∀ (p : Config.Params) (m : BitVec 9), pivotOf p .absent = 0 ∧ pivotOf p (.ms m) = m.toNat * p.fs / 1000

/-- For every rate of at least 10 samples a second a larger symbol gives a larger pivot; for the default rate symbol `v`
gives `v + 1` times the pivot of symbol 0, which is 4410, a multiple of 441 (R143). -/
def Obligations.PivotMonotone : Prop :=
  (∀ (fs : Nat) (v u : BitVec 2), 10 ≤ fs → v < u →
    pivotOf { Config.build with fs := fs } (pulseOf Config.build (.sym v)) <
      pivotOf { Config.build with fs := fs } (pulseOf Config.build (.sym u))) ∧
  ∀ v : BitVec 2, pivotOf Config.build (pulseOf Config.build (.sym v)) = (v.toNat + 1) * 4410

/-! ## The renderer -/

/-- RND.SAMPLE on every path (R150): muted by a fault 0.0; the placeholder 1.0 while an update is in progress; the
overflow fault at the count's maximum; otherwise the count is advanced and the sample is the tone from the pivot on and
0.0 below it, by the count before the increment. It completes in every state. -/
def Obligations.SampleByPath : Prop :=
  ∀ s : State, exec .rndSample s = .next
    (if s.fltCode ≠ 0 then { s with out := some 0x00000000, result := none }
     else if s.updating = true then { s with out := some 0x3F800000, result := none }
     else if s.count.toNat = 2 ^ 32 - 1 then { Faulted s 5 .countOverflow with out := some 0x00000000 }
     else
       { s with
         count := s.count + 1
         out := some (if s.pivot.toNat ≤ s.count.toNat then sinq Config.build s.count.toNat else 0x00000000)
         result := none })

/-- Every sample is there in the step that asks for it, and is a finite binary32 between -1 and 1 (R60, R80, R207). The
real value of a pattern is IEEE 754's (log entry 19). -/
def Obligations.EverySampleInRange : Prop :=
  ∀ s : State, ∃ t v, exec .rndSample s = .next t ∧ t.out = some v ∧ Finite32 v ∧ -1 ≤ binary32 v ∧ binary32 v ≤ 1

/-- The count cannot be passed: at its maximum the request is answered 0.0, CountOverflow is recorded, the updater halts
and the count stays (R196). -/
def Obligations.CountOverflowFaults : Prop :=
  ∀ s : State, Idle s → s.count = 0xFFFFFFFF →
    exec .rndSample s = .next
      { s with fltCode := 5, phase := .halted, out := some 0x00000000, result := some (.raised .countOverflow) }

/-- The envelope of one second (R156): from a count of 0 the first `k` requests get 0.0 below the pivot and the tone
sample of their own index from it on, for every `k` the counter holds; the pivot does not move and the count is `k`. -/
def Obligations.EnvelopeOfSecond : Prop :=
  ∀ (s : State) (k : Nat), Idle s → s.count = 0 → k < 2 ^ 32 →
    (render k s).1 = (List.range k).map
      (fun n => if n < s.pivot.toNat then 0x00000000 else sinq Config.build n) ∧
    (render k s).2.count.toNat = k ∧ (render k s).2.pivot = s.pivot ∧ Idle (render k s).2

/-- Any number of requests may fall inside an update (R58, R151): each gets 1.0; after them every register, the ports and
the stimuli are as before, only the two output wires differ; and the commit that follows leaves what it leaves without
them. -/
def Obligations.PlaceholdersChangeNothing : Prop :=
  ∀ (s : State) (k : Nat), s.fltCode = 0 → s.phase = .updating → s.updating = true →
    (render k s).1 = List.replicate k 0x3F800000 ∧
    { (render k s).2 with out := s.out, result := s.result } = s ∧
    exec .updCommit (render k s).2 = exec .updCommit s

/-- RND.SAMPLE on the IDLE path under the parameters of any build whose registers the state holds (`Params.wf`, log entry
16), with a count of at most `CNT_W` bits (R8, R29, R150): the overflow at the counter's maximum, else the count goes up
by one without wrapping, and the index is `K_IDX` above the count before the increment. -/
def Obligations.SampleUnderParameters : Prop :=
  ∀ (p : Config.Params) (s : State), p.wf → s.count.toNat < 2 ^ p.cntW → Idle s →
    if s.count.toNat = 2 ^ p.cntW - 1 then sample p s = { Faulted s 5 .countOverflow with out := some 0x00000000 }
    else
      (sample p s).count.toNat = s.count.toNat + 1 ∧ (sample p s).count.toNat < 2 ^ p.cntW ∧
      sample p s =
        { s with
          count := s.count + 1
          out := some (if s.pivot.toNat ≤ s.count.toNat + p.kIdx then sinq p (s.count.toNat + p.kIdx) else 0x00000000)
          result := none }

/-- Once a fault is recorded it stays recorded, and every sample is 0.0, through every step that is not a reset
(R33, R152, R198). -/
def Obligations.MutedUntilReset : Prop :=
  ∀ s t : State, s.fltCode ≠ 0 → nextCause s ≠ .event .reset → step s = .next t →
    t.fltCode = s.fltCode ∧ ∀ v, t.out = some v → v = 0x00000000

/-! ## The updater -/

/-- UPD.ARM in READY (R172): a ClockFault without a reading, a FieldOutOfRange for a part of the second above 999999,
else the rest of the second becomes the sleep target and the updater sleeps; nothing else changes. -/
def Obligations.ArmSetsSleepTarget : Prop :=
  ∀ s : State, s.phase = .ready →
    if s.ts.ok = false then exec .updArm s = .next (Faulted s 1 .clockFault)
    else if 999999 < s.ts.subsecUs.toNat then exec .updArm s = .next (Faulted s 2 (.fieldOutOfRange .subsecUs))
    else exec .updArm s = .next
      { s with sleepUs := BitVec.ofNat 20 (1000000 - s.ts.subsecUs.toNat), phase := .sleeping, out := none,
               result := none }

/-- No drift (R173): the target depends on the part of the second alone, whatever the earlier target and the earlier
lateness were, and reaches the next whole second exactly; it is never 0. -/
def Obligations.SleepTargetHasNoDrift : Prop :=
  ∀ s u : State, s.phase = .ready → u.phase = .ready → s.ts.ok = true → u.ts.ok = true →
    s.ts.subsecUs.toNat ≤ 999999 → u.ts.subsecUs = s.ts.subsecUs →
    ∃ t v, exec .updArm s = .next t ∧ exec .updArm u = .next v ∧ t.sleepUs = v.sleepUs ∧
      t.sleepUs.toNat + s.ts.subsecUs.toNat = 1000000 ∧ 1 ≤ t.sleepUs.toNat

/-- UPD.BEGIN in SLEEPING takes exclusive access and leaves the pivot and the count (R174); an interrupted wait is a
ClockFault in its place (R191). -/
def Obligations.BeginTakesAccess : Prop :=
  ∀ s : State, s.phase = .sleeping →
    (s.waitBroken = false → exec .updBegin s = .next
      { s with updating := true, phase := .updating, out := none, result := none }) ∧
    (s.waitBroken = true → exec .updBegin s = .next (Faulted s 1 .clockFault))

/-- UPD.COMMIT in UPDATING (R176): in the domain all three shared fields are replaced at once by ENCPIVOT's number, 0
and 0, and the updater is ready; where ENC.EVAL faults, the fault is taken and pivot and count stay. -/
def Obligations.CommitReplacesShared : Prop :=
  ∀ s : State, s.phase = .updating →
    (InDomain s.ts → ∃ n, encPivot Config.build s.ts = .ok n ∧ n ≤ 17640 ∧ exec .updCommit s = .next
      { s with pivot := BitVec.ofNat 32 n, count := 0, updating := false, phase := .ready, out := none,
               result := none }) ∧
    (¬ InDomain s.ts → ∃ f, encPivot Config.build s.ts = .error f ∧
      exec .updCommit s = .next (Faulted s (faultCode f) f))

/-- Each updater operation is enabled in its own phase and no other; in HALTED none is, and the machine is stuck on one
that is asked for (R170). -/
def Obligations.UpdaterEnabledByPhase : Prop :=
  ∀ s : State,
    (s.phase ≠ .ready ↔ exec .updArm s = .fault (.notEnabled .updArm s.phase)) ∧
    (s.phase ≠ .sleeping ↔ exec .updBegin s = .fault (.notEnabled .updBegin s.phase)) ∧
    (s.phase ≠ .updating ↔ exec .updCommit s = .fault (.notEnabled .updCommit s.phase)) ∧
    (s.phase = .ready → ∃ t, exec .updArm s = .next t) ∧
    (s.phase = .sleeping → ∃ t, exec .updBegin s = .next t) ∧
    (s.phase = .updating → ∃ t, exec .updCommit s = .next t)

/-- The updater observes nothing of the renderer (R178): two states that differ in the pivot, the count and the output
wire only end an updater operation alike in everything else; and a commit without a fault makes them equal. -/
def Obligations.UpdaterIgnoresRenderer : Prop :=
  ∀ (s : State) (pv ct : Word) (o : Option Word) (i : Instr), (∃ ph, enablingPhase i = some ph) → ∀ t,
    exec i s = .next t →
    ∃ u, exec i { s with pivot := pv, count := ct, out := o } = .next u ∧
      u = { t with pivot := u.pivot, count := u.count } ∧
      (i = .updCommit → InDomain s.ts → u = t)

/-- TICK (R85): from a sleep that ended by expiry, with a commit's record in the domain and a reading at UPD.ARM, the steps
of the trace (any number of requests between its parts, every part with inputs of its own) leave the pivot of the record
UPD.COMMIT read, the count of the requests since, and the sleep target of the record UPD.ARM read, asleep again. The samples
are the placeholders of the update and then the start of the new second's envelope (R151, R156). After an earlier fault
every sample is 0.0 and none is counted (R152). -/
def Obligations.TickCompletesCycle : Prop :=
  ∀ (s : State) (wake commit arm : Config.Inputs) (update second : List Config.Inputs) (rest : List Slot),
    s.script = tick wake update commit second arm ++ rest → s.phase = .sleeping → wake.waitBroken = false →
    InDomain commit.ts → arm.ts.ok = true → arm.ts.subsecUs.toNat ≤ 999999 → second.length < 2 ^ 32 →
    ∃ n, encPivot Config.build commit.ts = .ok n ∧
      observe (tick wake update commit second arm).length s =
        (if s.fltCode = 0 then
          List.replicate update.length 0x3F800000 ++
            (List.range second.length).map (fun k => if k < n then 0x00000000 else sinq Config.build k)
        else List.replicate (update.length + second.length) 0x00000000) ∧
      core.run (tick wake update commit second arm).length s = .next
        { s with
          pivot := BitVec.ofNat 32 n
          count := if s.fltCode = 0 then BitVec.ofNat 32 second.length else 0
          updating := false
          phase := .sleeping
          sleepUs := BitVec.ofNat 20 (1000000 - arm.ts.subsecUs.toNat)
          ts := arm.ts
          waitBroken := arm.waitBroken
          out := none
          result := none
          script := rest }

/-! ## The block as a whole -/

/-- Fault entry (R197), whichever operation takes the fault: the first code is kept, the flag is cleared, the updater
halts; every other register keeps its value; from then on, in every later state that no reset comes before, the code
stands, the sample is 0.0 and no updater operation is enabled. That a bare ENC.EVAL is among the operations is the model's
reading (log entry 12), and so is the stop `notEnabled` for a step that does not exist (log entry 13). -/
def Obligations.FaultEntry : Prop :=
  ∀ (i : Instr) (s t : State) (f : BlockFault), exec i s = .next t → t.result = some (.raised f) →
    t = { Faulted s (faultCode f) f with out := t.out } ∧ t.fltCode ≠ 0 ∧
    ∀ u : State, Later t u →
      u.fltCode = t.fltCode ∧ u.phase = .halted ∧
      exec .rndSample u = .next { u with out := some 0x00000000, result := none } ∧
      (∀ j ph, enablingPhase j = some ph → exec j u = .fault (.notEnabled j .halted))

/-- Which operation may change which register (R204, R62, R158): the pivot UPD.COMMIT alone, and with it the count to 0
and the flag to 0; the count RND.SAMPLE alone beside it, by one; the sleep timer UPD.ARM alone; the flag and the phase
the updater or a fault; and no operation what lies outside the block. -/
def Obligations.AccessRights : Prop :=
  ∀ (i : Instr) (s t : State), exec i s = .next t →
    (t.pivot ≠ s.pivot → i = .updCommit ∧ t.count = 0 ∧ t.updating = false) ∧
    (t.count ≠ s.count → i = .updCommit ∧ t.count = 0 ∨ i = .rndSample ∧ t.count = s.count + 1) ∧
    (t.sleepUs ≠ s.sleepUs → i = .updArm) ∧
    (t.updating ≠ s.updating → i = .updBegin ∨ i = .updCommit ∨ t.phase = .halted) ∧
    (t.phase ≠ s.phase → (∃ ph, enablingPhase i = some ph) ∨ t.phase = .halted) ∧
    (t.fltCode ≠ s.fltCode → t.phase = .halted ∧ s.fltCode = 0) ∧
    t.ts = s.ts ∧ t.waitBroken = s.waitBroken ∧ t.script = s.script ∧ t.tick = s.tick

/-- The output wires are read by no operation (R21, R27): what a state shows on them changes nothing in any outcome. -/
def Obligations.OutputWiresUnread : Prop :=
  ∀ (i : Instr) (s : State) (o : Option Word) (r : Option Result), exec i { s with out := o, result := r } = exec i s

/-- A wake and a request at the same instant may be taken in either order (R202): the update first, and the sample is
the placeholder; the request first, and it is one more sample of the old second. Either way the update is in progress,
the pivot is the old one, and the next commit leaves the same registers. -/
def Obligations.EitherOrderOfEvents : Prop :=
  ∀ s : State, s.fltCode = 0 → s.phase = .sleeping → s.updating = false → s.waitBroken = false →
    s.count.toNat < 2 ^ 32 - 1 → InDomain s.ts →
    ∃ t u v, runAll [.updBegin, .rndSample] s = .next t ∧ t.out = some 0x3F800000 ∧ t.count = s.count ∧
      runAll [.rndSample] s = .next v ∧ v.out ≠ none ∧ v.count = s.count + 1 ∧
      runAll [.rndSample, .updBegin] s = .next u ∧ u.phase = .updating ∧ t.phase = .updating ∧
      u.pivot = s.pivot ∧ t.pivot = s.pivot ∧ exec .updCommit u = exec .updCommit t

/-- Every event but reset, in every state that meets the invariant, follows a row of the transition table, and there is
no other transition (R179). That the updater's event leaves a halted block as it is is the model's row (log entry 15). -/
def Obligations.EventsFollowTable : Prop :=
  ∀ (s t : State) (e : Config.Event), BlockInv s → e ≠ .reset → runEvent e s = .next t → Row s e t

/-- What reset leaves, as the spec states it (R37); the sleep timer and what lies outside the block are not named. -/
def Obligations.ResetValues : Prop :=
  State.reset.pivot = 0 ∧ State.reset.count = 0 ∧ State.reset.updating = false ∧ State.reset.phase = .ready ∧
  State.reset.fltCode = 0 ∧ State.reset.out = none

/-- Reset is complete from any state, a faulted one too (R220, R198): the state after differs from the reset state only
in what lies outside the block. -/
def Obligations.ResetFromAnyState : Prop :=
  ∀ s : State, ∃ t, runEvent .reset s = .next t ∧
    t = { State.reset with ts := s.ts, waitBroken := s.waitBroken, script := s.script, tick := s.tick } ∧
    Healthy t ∧ t.phase = .ready

/-- The invariant holds right after reset (R31, R37). That the sleep timer's reset value meets it is the model's own
(log entry 3). -/
def Obligations.InvariantAtReset : Prop := BlockInv State.reset

/-- Every step keeps the invariant (R31): the pivot stays one of the five, the flag goes with the phase UPDATING, a
recorded fault with the phase HALTED, no code but those of R190 is written, the sleep timer stays within a second. Through a
reset the clause about the sleep timer rests on its reset value, the model's own (log entry 3). -/
def Obligations.StepKeepsInvariant : Prop :=
  ∀ s t : State, BlockInv s → step s = .next t → BlockInv t

/-! ## The tone -/

/-- The ideal tone has period 441, is odd about it and is 0 exactly at the multiples of 441 (R154); every pivot is one
of them. -/
def Obligations.IdealToneZeros : Prop :=
  (∀ (n : Nat) (x : ℝ), IsIdealTone Config.build n x →
    (x = 0 ↔ 441 ∣ n) ∧ IsIdealTone Config.build (n + 441) x ∧
    (n ≤ 441 → IsIdealTone Config.build (441 - n) (-x))) ∧
  ∀ y : OptSym, IsIdealTone Config.build (pivotOf Config.build (pulseOf Config.build y)) 0

/-- If the tone samples are within `eps` of the ideal, the first tone sample after the muted part of a second is within
`eps` of 0 (R153 property 3, R154 part 3): the tone resumes at a zero of the sine. The real value of a pattern is
IEEE 754's (log entry 19). -/
def Obligations.ToneResumesNearZero : Prop :=
  ∀ (eps : ℝ) (s : State), SinqWithin Config.build eps → Idle s → LegalPivot s.pivot → s.count = s.pivot →
    ∃ t v, exec .rndSample s = .next t ∧ t.out = some v ∧ |((binary32 v : ℚ) : ℝ)| ≤ eps
end

