-- ==== Sys2Proof/Laws/Config.lean ====
section
/-!
SUPPORT. The parameters of the default build (00_scope.md R7, R8), one lemma each, and that the build is well-formed.
-/

namespace Sys2Proof.Laws

@[simp] theorem build_slots : Config.build.slots = 60 := by decide
@[simp] theorem build_fragLen : Config.build.fragLen = 20 := by decide
@[simp] theorem build_superframes : Config.build.superframes = 3 := by decide
@[simp] theorem build_channels : Config.build.channels = 1 := by decide
@[simp] theorem build_zoneHours : Config.build.zoneHours = 8 := by decide
@[simp] theorem build_fs : Config.build.fs = 44100 := by decide
@[simp] theorem build_fc : Config.build.fc = 13700 := by norm_num [Config.Params.fc, Config.build]
@[simp] theorem build_pw0 : Config.build.pw0 = 100 := by decide
@[simp] theorem build_pw1 : Config.build.pw1 = 200 := by decide
@[simp] theorem build_pw2 : Config.build.pw2 = 300 := by decide
@[simp] theorem build_pw3 : Config.build.pw3 = 400 := by decide
@[simp] theorem build_aUpd : Config.build.aUpd = 0x3F800000 := by decide
@[simp] theorem build_srcA : Config.build.srcA = 0 := by decide
@[simp] theorem build_srcB : Config.build.srcB = 1 := by decide
@[simp] theorem build_srcC : Config.build.srcC = 3 := by decide
@[simp] theorem build_yyMax : Config.build.yyMax = 63 := by decide
@[simp] theorem build_cntW : Config.build.cntW = 32 := by decide
@[simp] theorem build_pivotW : Config.build.pivotW = 32 := by decide
@[simp] theorem build_kIdx : Config.build.kIdx = 0 := by decide
@[simp] theorem build_yearPolicy : Config.build.yearPolicy = .fault := by decide

/-- The default build meets what the 32-bit state needs (R28, R29, R142). -/
theorem build_wf : Config.build.wf := by decide

end Sys2Proof.Laws
end

