-- ==== Sys2Proof/Laws/State.lean ====
section
/-!
SUPPORT. What each operation over the state does to each field: one lemma per field, true by definition.
-/

namespace Sys2Proof.Laws.State

open Sys2Proof.Machine

variable (s : State)

/-! silent -/

@[simp] theorem silent_pivot : (silent s).pivot = s.pivot := rfl
@[simp] theorem silent_count : (silent s).count = s.count := rfl
@[simp] theorem silent_updating : (silent s).updating = s.updating := rfl
@[simp] theorem silent_phase : (silent s).phase = s.phase := rfl
@[simp] theorem silent_sleepUs : (silent s).sleepUs = s.sleepUs := rfl
@[simp] theorem silent_fltCode : (silent s).fltCode = s.fltCode := rfl
@[simp] theorem silent_ts : (silent s).ts = s.ts := rfl
@[simp] theorem silent_waitBroken : (silent s).waitBroken = s.waitBroken := rfl
@[simp] theorem silent_out : (silent s).out = none := rfl
@[simp] theorem silent_result : (silent s).result = none := rfl
@[simp] theorem silent_script : (silent s).script = s.script := rfl
@[simp] theorem silent_tick : (silent s).tick = s.tick := rfl

/-! answer -/

@[simp] theorem answer_pivot (v : Word) : (answer v s).pivot = s.pivot := rfl
@[simp] theorem answer_count (v : Word) : (answer v s).count = s.count := rfl
@[simp] theorem answer_updating (v : Word) : (answer v s).updating = s.updating := rfl
@[simp] theorem answer_phase (v : Word) : (answer v s).phase = s.phase := rfl
@[simp] theorem answer_sleepUs (v : Word) : (answer v s).sleepUs = s.sleepUs := rfl
@[simp] theorem answer_fltCode (v : Word) : (answer v s).fltCode = s.fltCode := rfl
@[simp] theorem answer_ts (v : Word) : (answer v s).ts = s.ts := rfl
@[simp] theorem answer_waitBroken (v : Word) : (answer v s).waitBroken = s.waitBroken := rfl
@[simp] theorem answer_out (v : Word) : (answer v s).out = some v := rfl
@[simp] theorem answer_result (v : Word) : (answer v s).result = none := rfl
@[simp] theorem answer_script (v : Word) : (answer v s).script = s.script := rfl
@[simp] theorem answer_tick (v : Word) : (answer v s).tick = s.tick := rfl

/-! returning -/

@[simp] theorem returning_pivot (r : Result) : (returning r s).pivot = s.pivot := rfl
@[simp] theorem returning_count (r : Result) : (returning r s).count = s.count := rfl
@[simp] theorem returning_updating (r : Result) : (returning r s).updating = s.updating := rfl
@[simp] theorem returning_phase (r : Result) : (returning r s).phase = s.phase := rfl
@[simp] theorem returning_sleepUs (r : Result) : (returning r s).sleepUs = s.sleepUs := rfl
@[simp] theorem returning_fltCode (r : Result) : (returning r s).fltCode = s.fltCode := rfl
@[simp] theorem returning_ts (r : Result) : (returning r s).ts = s.ts := rfl
@[simp] theorem returning_waitBroken (r : Result) : (returning r s).waitBroken = s.waitBroken := rfl
@[simp] theorem returning_out (r : Result) : (returning r s).out = none := rfl
@[simp] theorem returning_result (r : Result) : (returning r s).result = some r := rfl
@[simp] theorem returning_script (r : Result) : (returning r s).script = s.script := rfl
@[simp] theorem returning_tick (r : Result) : (returning r s).tick = s.tick := rfl

/-! raise -/

@[simp] theorem raise_pivot (f : BlockFault) : (raise f s).pivot = s.pivot := rfl
@[simp] theorem raise_count (f : BlockFault) : (raise f s).count = s.count := rfl
@[simp] theorem raise_updating (f : BlockFault) : (raise f s).updating = false := rfl
@[simp] theorem raise_phase (f : BlockFault) : (raise f s).phase = .halted := rfl
@[simp] theorem raise_sleepUs (f : BlockFault) : (raise f s).sleepUs = s.sleepUs := rfl
@[simp] theorem raise_fltCode (f : BlockFault) : (raise f s).fltCode = if s.fltCode = 0 then faultCode f else s.fltCode := rfl
@[simp] theorem raise_ts (f : BlockFault) : (raise f s).ts = s.ts := rfl
@[simp] theorem raise_waitBroken (f : BlockFault) : (raise f s).waitBroken = s.waitBroken := rfl
@[simp] theorem raise_out (f : BlockFault) : (raise f s).out = none := rfl
@[simp] theorem raise_result (f : BlockFault) : (raise f s).result = some (.raised f) := rfl
@[simp] theorem raise_script (f : BlockFault) : (raise f s).script = s.script := rfl
@[simp] theorem raise_tick (f : BlockFault) : (raise f s).tick = s.tick := rfl

/-! raiseAnswering -/

@[simp] theorem raiseAnswering_pivot (f : BlockFault) (v : Word) : (raiseAnswering f v s).pivot = s.pivot := rfl
@[simp] theorem raiseAnswering_count (f : BlockFault) (v : Word) : (raiseAnswering f v s).count = s.count := rfl
@[simp] theorem raiseAnswering_updating (f : BlockFault) (v : Word) : (raiseAnswering f v s).updating = false := rfl
@[simp] theorem raiseAnswering_phase (f : BlockFault) (v : Word) : (raiseAnswering f v s).phase = .halted := rfl
@[simp] theorem raiseAnswering_sleepUs (f : BlockFault) (v : Word) : (raiseAnswering f v s).sleepUs = s.sleepUs := rfl
@[simp] theorem raiseAnswering_fltCode (f : BlockFault) (v : Word) : (raiseAnswering f v s).fltCode = if s.fltCode = 0 then faultCode f else s.fltCode := rfl
@[simp] theorem raiseAnswering_ts (f : BlockFault) (v : Word) : (raiseAnswering f v s).ts = s.ts := rfl
@[simp] theorem raiseAnswering_waitBroken (f : BlockFault) (v : Word) : (raiseAnswering f v s).waitBroken = s.waitBroken := rfl
@[simp] theorem raiseAnswering_out (f : BlockFault) (v : Word) : (raiseAnswering f v s).out = some v := rfl
@[simp] theorem raiseAnswering_result (f : BlockFault) (v : Word) : (raiseAnswering f v s).result = some (.raised f) := rfl
@[simp] theorem raiseAnswering_script (f : BlockFault) (v : Word) : (raiseAnswering f v s).script = s.script := rfl
@[simp] theorem raiseAnswering_tick (f : BlockFault) (v : Word) : (raiseAnswering f v s).tick = s.tick := rfl

/-! countSample -/

@[simp] theorem countSample_pivot : (countSample s).pivot = s.pivot := rfl
@[simp] theorem countSample_count : (countSample s).count = s.count + 1 := rfl
@[simp] theorem countSample_updating : (countSample s).updating = s.updating := rfl
@[simp] theorem countSample_phase : (countSample s).phase = s.phase := rfl
@[simp] theorem countSample_sleepUs : (countSample s).sleepUs = s.sleepUs := rfl
@[simp] theorem countSample_fltCode : (countSample s).fltCode = s.fltCode := rfl
@[simp] theorem countSample_ts : (countSample s).ts = s.ts := rfl
@[simp] theorem countSample_waitBroken : (countSample s).waitBroken = s.waitBroken := rfl
@[simp] theorem countSample_out : (countSample s).out = s.out := rfl
@[simp] theorem countSample_result : (countSample s).result = s.result := rfl
@[simp] theorem countSample_script : (countSample s).script = s.script := rfl
@[simp] theorem countSample_tick : (countSample s).tick = s.tick := rfl

/-! armUpdater -/

@[simp] theorem armUpdater_pivot (us : BitVec 20) : (armUpdater us s).pivot = s.pivot := rfl
@[simp] theorem armUpdater_count (us : BitVec 20) : (armUpdater us s).count = s.count := rfl
@[simp] theorem armUpdater_updating (us : BitVec 20) : (armUpdater us s).updating = s.updating := rfl
@[simp] theorem armUpdater_phase (us : BitVec 20) : (armUpdater us s).phase = .sleeping := rfl
@[simp] theorem armUpdater_sleepUs (us : BitVec 20) : (armUpdater us s).sleepUs = us := rfl
@[simp] theorem armUpdater_fltCode (us : BitVec 20) : (armUpdater us s).fltCode = s.fltCode := rfl
@[simp] theorem armUpdater_ts (us : BitVec 20) : (armUpdater us s).ts = s.ts := rfl
@[simp] theorem armUpdater_waitBroken (us : BitVec 20) : (armUpdater us s).waitBroken = s.waitBroken := rfl
@[simp] theorem armUpdater_out (us : BitVec 20) : (armUpdater us s).out = none := rfl
@[simp] theorem armUpdater_result (us : BitVec 20) : (armUpdater us s).result = none := rfl
@[simp] theorem armUpdater_script (us : BitVec 20) : (armUpdater us s).script = s.script := rfl
@[simp] theorem armUpdater_tick (us : BitVec 20) : (armUpdater us s).tick = s.tick := rfl

/-! beginUpdate -/

@[simp] theorem beginUpdate_pivot : (beginUpdate s).pivot = s.pivot := rfl
@[simp] theorem beginUpdate_count : (beginUpdate s).count = s.count := rfl
@[simp] theorem beginUpdate_updating : (beginUpdate s).updating = true := rfl
@[simp] theorem beginUpdate_phase : (beginUpdate s).phase = .updating := rfl
@[simp] theorem beginUpdate_sleepUs : (beginUpdate s).sleepUs = s.sleepUs := rfl
@[simp] theorem beginUpdate_fltCode : (beginUpdate s).fltCode = s.fltCode := rfl
@[simp] theorem beginUpdate_ts : (beginUpdate s).ts = s.ts := rfl
@[simp] theorem beginUpdate_waitBroken : (beginUpdate s).waitBroken = s.waitBroken := rfl
@[simp] theorem beginUpdate_out : (beginUpdate s).out = none := rfl
@[simp] theorem beginUpdate_result : (beginUpdate s).result = none := rfl
@[simp] theorem beginUpdate_script : (beginUpdate s).script = s.script := rfl
@[simp] theorem beginUpdate_tick : (beginUpdate s).tick = s.tick := rfl

/-! commitPivot -/

@[simp] theorem commitPivot_pivot (v : Word) : (commitPivot v s).pivot = v := rfl
@[simp] theorem commitPivot_count (v : Word) : (commitPivot v s).count = 0 := rfl
@[simp] theorem commitPivot_updating (v : Word) : (commitPivot v s).updating = false := rfl
@[simp] theorem commitPivot_phase (v : Word) : (commitPivot v s).phase = .ready := rfl
@[simp] theorem commitPivot_sleepUs (v : Word) : (commitPivot v s).sleepUs = s.sleepUs := rfl
@[simp] theorem commitPivot_fltCode (v : Word) : (commitPivot v s).fltCode = s.fltCode := rfl
@[simp] theorem commitPivot_ts (v : Word) : (commitPivot v s).ts = s.ts := rfl
@[simp] theorem commitPivot_waitBroken (v : Word) : (commitPivot v s).waitBroken = s.waitBroken := rfl
@[simp] theorem commitPivot_out (v : Word) : (commitPivot v s).out = none := rfl
@[simp] theorem commitPivot_result (v : Word) : (commitPivot v s).result = none := rfl
@[simp] theorem commitPivot_script (v : Word) : (commitPivot v s).script = s.script := rfl
@[simp] theorem commitPivot_tick (v : Word) : (commitPivot v s).tick = s.tick := rfl

/-! present -/

@[simp] theorem present_pivot (inp : Config.Inputs) : (present inp s).pivot = s.pivot := rfl
@[simp] theorem present_count (inp : Config.Inputs) : (present inp s).count = s.count := rfl
@[simp] theorem present_updating (inp : Config.Inputs) : (present inp s).updating = s.updating := rfl
@[simp] theorem present_phase (inp : Config.Inputs) : (present inp s).phase = s.phase := rfl
@[simp] theorem present_sleepUs (inp : Config.Inputs) : (present inp s).sleepUs = s.sleepUs := rfl
@[simp] theorem present_fltCode (inp : Config.Inputs) : (present inp s).fltCode = s.fltCode := rfl
@[simp] theorem present_ts (inp : Config.Inputs) : (present inp s).ts = inp.ts := rfl
@[simp] theorem present_waitBroken (inp : Config.Inputs) : (present inp s).waitBroken = inp.waitBroken := rfl
@[simp] theorem present_out (inp : Config.Inputs) : (present inp s).out = s.out := rfl
@[simp] theorem present_result (inp : Config.Inputs) : (present inp s).result = s.result := rfl
@[simp] theorem present_script (inp : Config.Inputs) : (present inp s).script = s.script := rfl
@[simp] theorem present_tick (inp : Config.Inputs) : (present inp s).tick = s.tick := rfl

/-! resetBlock -/

@[simp] theorem resetBlock_pivot : (resetBlock s).pivot = 0 := rfl
@[simp] theorem resetBlock_count : (resetBlock s).count = 0 := rfl
@[simp] theorem resetBlock_updating : (resetBlock s).updating = false := rfl
@[simp] theorem resetBlock_phase : (resetBlock s).phase = .ready := rfl
@[simp] theorem resetBlock_sleepUs : (resetBlock s).sleepUs = 0 := rfl
@[simp] theorem resetBlock_fltCode : (resetBlock s).fltCode = 0 := rfl
@[simp] theorem resetBlock_ts : (resetBlock s).ts = s.ts := rfl
@[simp] theorem resetBlock_waitBroken : (resetBlock s).waitBroken = s.waitBroken := rfl
@[simp] theorem resetBlock_out : (resetBlock s).out = none := rfl
@[simp] theorem resetBlock_result : (resetBlock s).result = none := rfl
@[simp] theorem resetBlock_script : (resetBlock s).script = s.script := rfl
@[simp] theorem resetBlock_tick : (resetBlock s).tick = s.tick := rfl

end Sys2Proof.Laws.State
end

