-- ==== Sys2Proof/Laws/Encoder.lean ====
section
/-!
SUPPORT. What ENC.EVAL's checks and dispatch answer: the domain, the first fault, the widths of the windows.
-/

namespace Sys2Proof.Laws

open Sys2Proof.Machine Sys2Proof.Safety

/-- The range check over the fields' numbers, for a minute of 60 slots (R101, R195). -/
theorem firstBadField_eq {p : Config.Params} (hp : p.slots = 60) (ts : Timestamp) : firstBadField p ts =
    if ts.month.toNat < 1 ∨ 12 < ts.month.toNat then some .month
    else if ts.day.toNat < 1 then some .day
    else if ts.weekday.toNat < 1 then some .weekday
    else if ts.hour12.toNat < 1 ∨ 12 < ts.hour12.toNat then some .hour12
    else if 59 < ts.minute.toNat then some .minute
    else if 60 ≤ ts.second.toNat then some .second
    else none := by
  unfold firstBadField
  simp only [BitVec.lt_def, hp]
  rfl

/-- The range check finds no field exactly where the fields are in range (R101). -/
theorem firstBadField_eq_none_iff {p : Config.Params} (hp : p.slots = 60) (ts : Timestamp) :
    firstBadField p ts = none ↔ FieldsInRange ts := by
  have hd := ts.day.isLt
  have hw := ts.weekday.isLt
  unfold firstBadField FieldsInRange
  simp only [BitVec.lt_def, hp]
  split_ifs <;> simp_all <;> omega

/-- ENC.EVAL finds no fault exactly in the domain (R100, R101). -/
theorem recordFault_build_eq_none_iff (ts : Timestamp) : recordFault Config.build ts = none ↔ InDomain ts := by
  unfold recordFault InDomain
  rcases hok : ts.ok with _ | _
  · simp
  · cases hb : firstBadField Config.build ts with
    | some f => simp [hb, ← firstBadField_eq_none_iff build_slots]
    | none =>
      have hr := (firstBadField_eq_none_iff build_slots ts).mp hb
      by_cases hy : 63 < ts.yy.toNat
      · simp [hy]
      · simp only [Bool.true_eq_false, if_false, build_yearPolicy, build_yyMax, hy]
        exact ⟨fun _ => ⟨trivial, hr, by omega⟩, fun _ => trivial⟩

/-- In the domain ENC.EVAL answers the row's symbol (R100). -/
theorem evalRecord_build_of_inDomain {ts : Timestamp} (h : InDomain ts) :
    evalRecord Config.build ts = .ok (encAt Config.build (frag Config.build ts) ts) := by
  simp [evalRecord, (recordFault_build_eq_none_iff ts).mpr h]

/-- ENC.EVAL's two outcomes: a symbol in the domain, or the fault its checks find. -/
theorem evalRecord_build_cases (ts : Timestamp) :
    (InDomain ts ∧ evalRecord Config.build ts = .ok (encAt Config.build (frag Config.build ts) ts)) ∨
      ∃ f, recordFault Config.build ts = some f ∧ evalRecord Config.build ts = .error f := by
  cases hf : recordFault Config.build ts with
  | none => exact .inl ⟨(recordFault_build_eq_none_iff ts).mp hf, by simp [evalRecord, hf]⟩
  | some f => exact .inr ⟨f, rfl, by simp [evalRecord, hf]⟩

/-- The checks raise only the three faults of R100, with codes 1, 2 and 3. -/
theorem faultCode_of_recordFault {p : Config.Params} {ts : Timestamp} {f : BlockFault}
    (h : recordFault p ts = some f) : faultCode f = 1 ∨ faultCode f = 2 ∨ faultCode f = 3 := by
  unfold recordFault at h
  split at h
  · simp at h; subst h; simp [faultCode]
  · split at h
    · simp at h; subst h; simp [faultCode]
    · split at h
      · split at h
        · simp at h; subst h; simp [faultCode]
        · simp at h
      · simp at h

/-- ENC.EVAL inside the domain (R100). -/
theorem exec_encEval_of_inDomain {s : State} (h : InDomain s.ts) (f : BitVec 5) :
    exec (.encEval f) s = returnSymbol (encAt Config.build (frag Config.build s.ts) s.ts) s := by
  simp [exec, execEncEval, evalRecord_build_of_inDomain h]

/-- ENC.EVAL where a check fails takes that fault (R100, R197). -/
theorem exec_encEval_of_fault {s : State} {g : BlockFault} (h : recordFault Config.build s.ts = some g)
    (f : BitVec 5) : exec (.encEval f) s = .next (raise g s) := by
  simp [exec, execEncEval, evalRecord, h]

/-- A parity bit as a number (R10). -/
theorem parity_toNat (l : List Nat) : (parity l).toNat = l.sum % 2 := by simp [parity]

/-- A symbol built of two bits, bit1 first (20_memory.md R51). -/
theorem pair_toNat (a : Bool) (b : BitVec 1) : (BitVec.ofBool a ++ b).toNat = 2 * a.toNat + b.toNat := by
  revert b
  cases a <;> decide

/-- Counting ones below `n` is counting the indices below `n` at which the bit is set (R10). -/
theorem onesBelow_eq_card {w : Nat} (v : BitVec w) (n : Nat) :
    onesBelow v n = ((Finset.range n).filter fun k => v.getLsbD k = true).card := by
  induction n with
  | zero => rfl
  | succ n ih =>
    rw [onesBelow, ih, Finset.range_add_one, Finset.filter_insert]
    cases h : v.getLsbD n <;> simp

/-- The fragment index is the second mod 20, for super-frames of 20 slots (R73). -/
theorem frag_val {p : Config.Params} (hp : p.fragLen = 20) (ts : Timestamp) :
    (frag p ts).val = ts.second.toNat % 20 := by
  simp only [frag, hp]
  exact Nat.mod_mod _ 20

/-- Whatever the build, the fragment index is below its number of slots per super-frame, where the table has as many rows. -/
theorem frag_val_lt {p : Config.Params} (hp : p.wf) (ts : Timestamp) : (frag p ts).val < p.fragLen :=
  (Nat.mod_le _ _).trans_lt (Nat.mod_lt _ hp.1.1)

@[simp] theorem frag_build_val (ts : Timestamp) : (frag Config.build ts).val = ts.second.toNat % 20 :=
  frag_val build_fragLen ts

/-- A top window is the integer division the source writes as a shift, where the field fits (R74). -/
theorem topWindow_toNat {w : Nat} (f : BitVec w) (s : Nat) : (topWindow f s).toNat = f.toNat / 2 ^ s % 4 := by
  simp [topWindow, Nat.shiftRight_eq_div_pow]

/-- An inner window is the shifted field mod 4 (R74), for fields of at least two bits. -/
theorem innerWindow_toNat {w : Nat} (hw : 2 ≤ w) (f : BitVec w) (s : Nat) :
    (innerWindow f s).toNat = f.toNat / 2 ^ s % 4 := by
  have h3 : (3#w).toNat = 2 ^ 2 - 1 := by
    have : 2 ^ 2 ≤ 2 ^ w := Nat.pow_le_pow_right (by decide) hw
    simp [BitVec.toNat_ofNat, Nat.mod_eq_of_lt (show 3 < 2 ^ w by omega)]
  simp only [innerWindow, BitVec.toNat_setWidth, BitVec.toNat_and, BitVec.toNat_ushiftRight, h3,
    Nat.and_two_pow_sub_one_eq_mod, Nat.shiftRight_eq_div_pow]
  omega

/-- The five pivots of R142 for the default rate. -/
theorem pivotWord_build_legal (y : OptSym) : LegalPivot (pivotWord Config.build (pulseOf Config.build y)) := by
  cases y with
  | blank => decide
  | sym v => revert v; decide

/-- In the domain UPD.COMMIT's pivot is ENCPIVOT's number (R85), which the register holds. -/
theorem encPivot_build_of_inDomain {ts : Timestamp} (h : InDomain ts) :
    encPivot Config.build ts = .ok (pivotOf Config.build (pulseOf Config.build (encAt Config.build (frag Config.build ts) ts))) := by
  simp [encPivot, encPw, evalRecord_build_of_inDomain h, Except.map]

end Sys2Proof.Laws
end

