-- ==== Sys2Proof/Laws/Exec.lean ====
section
/-!
SUPPORT. What an operation can do, said once for all 27 (the inversion of exec), and the paths of RND.SAMPLE.
-/

namespace Sys2Proof.Laws

open Sys2Proof.Machine Sys2Proof.Safety

/-- The three paths of RND.SAMPLE and the overflow (R150 to R152, R196). -/
theorem sample_build_cases (s : State) :
    (s.fltCode ≠ 0 ∧ sample Config.build s = answer 0 s) ∨
    (s.fltCode = 0 ∧ s.updating = true ∧ sample Config.build s = answer 0x3F800000 s) ∨
    (s.fltCode = 0 ∧ s.updating = false ∧ s.count.toNat = 4294967295 ∧
      sample Config.build s = raiseAnswering .countOverflow 0 s) ∨
    (s.fltCode = 0 ∧ s.updating = false ∧ s.count.toNat < 4294967295 ∧
      sample Config.build s = answer (envelope Config.build s.pivot s.count.toNat) (countSample s)) := by
  have hlt := s.count.isLt
  by_cases hf : s.fltCode = 0
  · by_cases hu : s.updating = true
    · exact .inr (.inl ⟨hf, hu, by simp [sample, mute, hf, hu]⟩)
    · have hu' : s.updating = false := by simpa using hu
      by_cases hc : s.count.toNat = 4294967295
      · exact .inr (.inr (.inl ⟨hf, hu', hc, by
          simp [sample, mute, hf, hu', sampleIdle, hc, muteSample]⟩))
      · exact .inr (.inr (.inr ⟨hf, hu', by omega, by
          simp [sample, mute, hf, hu', sampleIdle, hc]⟩))
  · have hm : mute s = true := by simpa [mute] using hf
    exact .inl ⟨hf, by simp [sample, hm, muteSample]⟩

/-- The operations that answer a request. -/
theorem exec_rndSample (s : State) : exec .rndSample s = .next (sample Config.build s) := rfl

/-- UPD.ARM in the phase that enables it (R172). -/
theorem exec_updArm {s : State} (hp : s.phase = .ready) : exec .updArm s = .next (arm s) := by
  simp [exec, execUpdArm, hp]

/-- UPD.BEGIN in the phase that enables it (R174). -/
theorem exec_updBegin {s : State} (hp : s.phase = .sleeping) : exec .updBegin s = .next (beginStep s) := by
  simp [exec, execUpdBegin, hp]

/-- UPD.COMMIT in the phase that enables it (R176). -/
theorem exec_updCommit {s : State} (hp : s.phase = .updating) : exec .updCommit s = .next (commit Config.build s) := by
  simp [exec, execUpdCommit, hp]

/-- UPD.ARM with a reading whose part of the second is in range (R172). -/
theorem arm_of_inRange {s : State} (hok : s.ts.ok = true) (hus : s.ts.subsecUs.toNat ≤ 999999) :
    arm s = armUpdater (sleepTarget s.ts.subsecUs) s := by
  have h : ¬ (999999 : BitVec 20) < s.ts.subsecUs := by
    rw [BitVec.lt_def]
    exact Nat.not_lt.mpr hus
  rw [arm, if_neg (by simp [hok]), if_neg h]

/-- UPD.COMMIT inside the domain (R176). -/
theorem commit_of_inDomain {s : State} (h : InDomain s.ts) : commit Config.build s =
    commitPivot (pivotWord Config.build (pulseOf Config.build (encAt Config.build (frag Config.build s.ts) s.ts))) s := by
  simp [commit, evalRecord_build_of_inDomain h]

/-- The sleep target in the register's 20 bits (R172). -/
theorem sleepTarget_toNat {us : BitVec 20} (h : us.toNat ≤ 999999) : (sleepTarget us).toNat = 1000000 - us.toNat := by
  simp only [sleepTarget]
  bv_omega

/-- What an operation that completes has done: it returned a value; it answered a request on one of the renderer's
paths; it took a fault; or it made one of the updater's three writes, in the phase that enables it. -/
theorem exec_cases {i : Instr} {s t : State} (h : exec i s = .next t) :
    (∃ r, (∀ f, r ≠ .raised f) ∧ t = returning r s ∧ i ≠ .rndSample) ∨
    (i = .rndSample ∧ t = sample Config.build s) ∨
    (∃ f, (faultCode f = 1 ∨ faultCode f = 2 ∨ faultCode f = 3) ∧ t = raise f s ∧
      ((∃ k, i = .encEval k) ∨ i = .updArm ∧ s.phase = .ready ∨ i = .updBegin ∧ s.phase = .sleeping ∨
        i = .updCommit ∧ s.phase = .updating)) ∨
    (i = .updArm ∧ s.phase = .ready ∧ s.ts.ok = true ∧ s.ts.subsecUs.toNat ≤ 999999 ∧
      t = armUpdater (sleepTarget s.ts.subsecUs) s) ∨
    (i = .updBegin ∧ s.phase = .sleeping ∧ s.waitBroken = false ∧ t = beginUpdate s) ∨
    (i = .updCommit ∧ s.phase = .updating ∧ InDomain s.ts ∧
      t = commitPivot (pivotWord Config.build (pulseOf Config.build (encAt Config.build (frag Config.build s.ts) s.ts))) s) := by
  have row : ∀ y : OptSym, returnSymbol y s = .next t → i ≠ .rndSample →
      ∃ r, (∀ f, r ≠ .raised f) ∧ t = returning r s ∧ i ≠ .rndSample := by
    intro y hy hi
    simp only [returnSymbol, Host.Outcome.next.injEq] at hy
    exact ⟨.symbol y, by simp, hy.symm, hi⟩
  cases i with
  | rndSample =>
    simp only [exec_rndSample, Host.Outcome.next.injEq] at h
    exact .inr (.inl ⟨rfl, h.symm⟩)
  | pw y =>
    simp only [exec, execPw, Host.Outcome.next.injEq] at h
    exact .inl ⟨_, by simp, h.symm, by simp⟩
  | pivot w =>
    simp only [exec, execPivot, Host.Outcome.next.injEq] at h
    exact .inl ⟨_, by simp, h.symm, by simp⟩
  | encEval k =>
    rcases evalRecord_build_cases s.ts with ⟨-, hk⟩ | ⟨f, hf, hk⟩
    · exact .inl (row _ (by simpa [exec, execEncEval, hk] using h) (by simp))
    · simp only [exec, execEncEval, hk, Host.Outcome.next.injEq] at h
      exact .inr (.inr (.inl ⟨f, faultCode_of_recordFault hf, h.symm, .inl ⟨k, rfl⟩⟩))
  | updArm =>
    simp only [exec, execUpdArm] at h
    split at h
    · rename_i hp
      simp only [Host.Outcome.next.injEq, arm] at h
      split at h
      · exact .inr (.inr (.inl ⟨_, by simp [faultCode], h.symm, .inr (.inl ⟨rfl, hp⟩)⟩))
      · split at h
        · exact .inr (.inr (.inl ⟨_, by simp [faultCode], h.symm, .inr (.inl ⟨rfl, hp⟩)⟩))
        · rename_i hok hus
          refine .inr (.inr (.inr (.inl ⟨rfl, hp, by simpa using hok, ?_, h.symm⟩)))
          simpa [BitVec.lt_def] using hus
    · simp at h
  | updBegin =>
    simp only [exec, execUpdBegin] at h
    split at h
    · rename_i hp
      simp only [Host.Outcome.next.injEq, beginStep] at h
      split at h
      · exact .inr (.inr (.inl ⟨_, by simp [faultCode], h.symm, .inr (.inr (.inl ⟨rfl, hp⟩))⟩))
      · rename_i hw
        exact .inr (.inr (.inr (.inr (.inl ⟨rfl, hp, by simpa using hw, h.symm⟩))))
    · simp at h
  | updCommit =>
    simp only [exec, execUpdCommit] at h
    split at h
    · rename_i hp
      simp only [Host.Outcome.next.injEq, commit] at h
      rcases evalRecord_build_cases s.ts with ⟨hd, hk⟩ | ⟨f, hf, hk⟩
      · rw [hk] at h
        exact .inr (.inr (.inr (.inr (.inr ⟨rfl, hp, hd, h.symm⟩))))
      · rw [hk] at h
        exact .inr (.inr (.inl ⟨f, faultCode_of_recordFault hf, h.symm, .inr (.inr (.inr ⟨rfl, hp⟩))⟩))
    · simp at h
  | _ => exact .inl (row _ h (by simp))

/-- No operation touches what lies outside the block: the ports and the stimuli. -/
theorem exec_keeps_outside {i : Instr} {s t : State} (h : exec i s = .next t) :
    t.ts = s.ts ∧ t.waitBroken = s.waitBroken ∧ t.script = s.script ∧ t.tick = s.tick := by
  rcases exec_cases h with ⟨r, -, rfl, -⟩ | ⟨-, rfl⟩ | ⟨f, -, rfl, -⟩ | ⟨-, -, -, -, rfl⟩ | ⟨-, -, -, rfl⟩ | ⟨-, -, -, rfl⟩
  case inr.inl =>
    rcases sample_build_cases s with ⟨-, h⟩ | ⟨-, -, h⟩ | ⟨-, -, -, h⟩ | ⟨-, -, -, h⟩ <;> rw [h] <;> simp
  all_goals simp

/-- Every operation but the updater's three completes in every state (R60, R126). -/
theorem exec_completes {i : Instr} (hi : enablingPhase i = none) (s : State) : ∃ t, exec i s = .next t := by
  cases i <;> simp [enablingPhase] at hi <;> try exact ⟨_, rfl⟩
  rename_i k
  rcases evalRecord_build_cases s.ts with ⟨-, hk⟩ | ⟨f, -, hk⟩ <;>
    exact ⟨_, by simp only [exec, execEncEval, hk]; rfl⟩

/-- The updater's next operation completes (R179): it is the one its phase enables. -/
theorem exec_updaterOp {i : Instr} {s : State} (hi : updaterOp s.phase = some i) : ∃ t, exec i s = .next t := by
  cases hp : s.phase <;> rw [hp] at hi <;> simp [updaterOp] at hi <;> subst hi
  · exact ⟨_, by simp only [exec, execUpdArm, hp, if_true]; rfl⟩
  · exact ⟨_, by simp only [exec, execUpdBegin, hp, if_true]; rfl⟩
  · exact ⟨_, by simp only [exec, execUpdCommit, hp, if_true]; rfl⟩

/-- An event always completes: the block never stops by itself (R60, R198). -/
theorem runEvent_completes (e : Config.Event) (s : State) : ∃ t, runEvent e s = .next t := by
  cases e with
  | sampleReq => exact ⟨_, exec_rndSample s⟩
  | reset => exact ⟨_, rfl⟩
  | updater =>
    cases hi : updaterOp s.phase with
    | some i => simpa [runEvent, hi] using exec_updaterOp hi
    | none => exact ⟨_, by simp only [runEvent, hi]; rfl⟩

end Sys2Proof.Laws
end

