-- ==== Sys2Proof/Laws/Step.lean ====
section
/-!
SUPPORT. What a step can do: an operation on the state its stimulus presents, a halted updater's idle step, or a reset.
-/

namespace Sys2Proof.Laws

open Sys2Proof.Machine Sys2Proof.Safety

/-- What an event does: an operation, nothing where the updater is halted, or a reset. -/
theorem runEvent_cases {e : Config.Event} {s t : State} (h : runEvent e s = .next t) :
    (∃ i, exec i s = .next t ∧ (e = .sampleReq ∧ i = .rndSample ∨ e = .updater ∧ updaterOp s.phase = some i)) ∨
    (e = .updater ∧ s.phase = .halted ∧ t = silent s) ∨
    (e = .reset ∧ t = resetBlock s) := by
  cases e with
  | sampleReq => exact .inl ⟨.rndSample, h, .inl ⟨rfl, rfl⟩⟩
  | reset => exact .inr (.inr ⟨rfl, by simpa [runEvent] using h.symm⟩)
  | updater =>
    simp only [runEvent] at h
    split at h
    · rename_i i hi
      exact .inl ⟨i, h, .inr ⟨rfl, hi⟩⟩
    · rename_i hi
      have hp : s.phase = .halted := by
        cases hp : s.phase <;> rw [hp] at hi <;> simp [updaterOp] at hi
      exact .inr (.inl ⟨rfl, hp, by simpa using h.symm⟩)

/-- What a cause does: an operation, a halted updater's idle step, or a reset. -/
theorem runCause_cases {c : Cause} {s t : State} (h : runCause c s = .next t) :
    (∃ i, exec i s = .next t) ∨ (s.phase = .halted ∧ t = silent s) ∨ (c = .event .reset ∧ t = resetBlock s) := by
  cases c with
  | op w =>
    simp only [runCause, runWord] at h
    split at h
    · exact .inl ⟨_, h⟩
    · simp at h
  | event e =>
    rcases runEvent_cases h with ⟨i, hi, -⟩ | ⟨-, hp, rfl⟩ | ⟨rfl, rfl⟩
    · exact .inl ⟨i, hi⟩
    · exact .inr (.inl ⟨hp, rfl⟩)
    · exact .inr (.inr ⟨rfl, rfl⟩)

/-- A step runs its cause on a state that differs in the ports and the stimuli alone. -/
theorem step_eq_runCause (s : State) :
    ∃ (inp : Config.Inputs) (rest : List Slot) (n : Nat),
      step s = runCause (nextCause s) (present inp { s with script := rest, tick := n }) := by
  cases hs : s.script with
  | nil =>
    refine ⟨(Config.environment s.tick).inputs, s.script, s.tick + 1, ?_⟩
    have h1 : step s = stepFree s := by simp [step, hs]
    have h2 : nextCause s = .event (Config.environment s.tick).event := by simp [nextCause, hs]
    rw [h1, h2]
    rfl
  | cons slot rest =>
    refine ⟨slot.inputs, rest, s.tick, ?_⟩
    simp only [step, nextCause, hs]
    rfl

/-- A laid-out turn of the updater runs the operation its phase enables (R170). -/
theorem step_updater {s : State} {inp : Config.Inputs} {rest : List Slot} {i : Instr}
    (hs : s.script = ⟨.event .updater, inp⟩ :: rest) (hi : updaterOp s.phase = some i) :
    step s = exec i (present inp { s with script := rest }) := by
  simp only [step, hs, stepLaidOut, runCause, runEvent, present, hi]

/-- An operation that completes in a faulted, halted state keeps the code and the phase (R197, R198). -/
theorem exec_keeps_halted {i : Instr} {s t : State} (hf : s.fltCode ≠ 0) (hp : s.phase = .halted)
    (h : exec i s = .next t) : t.fltCode = s.fltCode ∧ t.phase = .halted := by
  rcases exec_cases h with ⟨r, -, rfl, -⟩ | ⟨-, rfl⟩ | ⟨f, -, rfl, -⟩ | ⟨-, hq, -⟩ | ⟨-, hq, -⟩ | ⟨-, hq, -⟩
  · simp [hp]
  · rcases sample_build_cases s with ⟨-, h⟩ | ⟨h, -⟩ | ⟨h, -⟩ | ⟨h, -⟩
    · rw [h]; simp [hp]
    all_goals exact absurd h hf
  · exact ⟨by simpa using fun h0 => absurd h0 hf, rfl⟩
  all_goals simp [hp] at hq

/-- A step that is no reset keeps the code and the phase of a faulted, halted state (R33, R198). -/
theorem step_keeps_halted {s t : State} (hf : s.fltCode ≠ 0) (hp : s.phase = .halted)
    (hc : nextCause s ≠ .event .reset) (h : step s = .next t) : t.fltCode = s.fltCode ∧ t.phase = .halted := by
  obtain ⟨inp, rest, n, hs⟩ := step_eq_runCause s
  rw [hs] at h
  rcases runCause_cases h with ⟨i, hi⟩ | ⟨-, rfl⟩ | ⟨hr, -⟩
  · exact exec_keeps_halted (s := present inp { s with script := rest, tick := n }) hf hp hi
  · exact ⟨rfl, hp⟩
  · exact absurd hr hc

/-- Once faulted and halted, every later state before a reset is (R198). -/
theorem later_keeps_halted {s t : State} (hf : s.fltCode ≠ 0) (hp : s.phase = .halted) (h : Later s t) :
    t.fltCode = s.fltCode ∧ t.phase = .halted := by
  induction h with
  | now => exact ⟨rfl, hp⟩
  | step _ hc hs ih =>
    obtain ⟨h1, h2⟩ := step_keeps_halted (by rw [ih.1]; exact hf) ih.2 hc hs
    exact ⟨h1.trans ih.1, h2⟩

end Sys2Proof.Laws
end

