-- ==== Sys2Proof/Laws/Clock.lean ====
section
/-!
SUPPORT. The clock source's contract (60_exceptions.md R206): civil time going on by one second, and what duties 2 and 8
give the updater.
-/

namespace Sys2Proof.Laws

open Sys2Proof.Machine Sys2Proof.Safety

/-- No month has more than 31 days. -/
theorem daysInMonth_le (year month : Nat) : daysInMonth year month ≤ 31 := by
  unfold daysInMonth
  split_ifs <;> decide

/-- The next second of a valid civil time is valid. -/
theorem nextSecond_valid {c : CivilTime} (h : c.valid) : c.nextSecond.valid := by
  have := daysInMonth_le c.year c.month
  unfold CivilTime.nextSecond CivilTime.nextDay
  split_ifs <;> simp_all [CivilTime.valid] <;> omega

/-- The next second lies later on the time line. -/
theorem stamp_lt_nextSecond {c : CivilTime} (h : c.valid) : c.stamp < c.nextSecond.stamp := by
  simp only [CivilTime.valid] at h
  unfold CivilTime.nextSecond CivilTime.nextDay
  split_ifs <;> simp only [CivilTime.stamp] <;> omega

/-- The slot index advances by one, and from 59 to 0 (10_state.md R23). -/
theorem nextSecond_second {c : CivilTime} (h : c.valid) : c.nextSecond.second = (c.second + 1) % 60 := by
  simp only [CivilTime.valid] at h
  unfold CivilTime.nextSecond CivilTime.nextDay
  split_ifs <;> simp only <;> omega

/-- Under duty 2 the years do not decrease. -/
theorem year_le_of_stamp_le {a b : CivilTime} (ha : a.valid) (hb : b.valid) (h : a.stamp ≤ b.stamp) :
    a.year ≤ b.year := by
  simp only [CivilTime.valid] at ha hb
  simp only [CivilTime.stamp] at h
  omega

/-- Under duties 1, 7 and 8 the record UPD.COMMIT encodes has the second after that of UPD.ARM's record (R206). -/
theorem second_of_readsNewSecond {p : Config.Params} {a b : Reading} (ha : a.civil.valid)
    (pa : Presents p a.civil a.record) (pb : Presents p b.civil b.record) (oa : a.record.ok = true)
    (ob : b.record.ok = true) (hb : b.atCommit = true) (h : ReadsNewSecond a b) :
    b.record.second.toNat = (a.record.second.toNat + 1) % 60 := by
  have h2 := congrArg CivilTime.second (h hb)
  rw [nextSecond_second ha] at h2
  have ea := (pa.2.2 oa).2.2.2.2.2.2.2.1
  have eb := (pb.2.2 ob).2.2.2.2.2.2.2.1
  rw [ea, eb, ← h2]

/-- The updater's cycle under the clock's contract (R206, 70_reset_and_hazards.md R226): the three turns commit the pivot
of the second that follows the one UPD.ARM read. -/
theorem cycle_commits_next_second {s : State} {a b c : Config.Inputs} {rest : List Slot}
    (hp : s.phase = .ready)
    (hs : s.script = ⟨.event .updater, a⟩ :: ⟨.event .updater, b⟩ :: ⟨.event .updater, c⟩ :: rest)
    (ha : a.ts.ok = true) (hus : a.ts.subsecUs.toNat ≤ 999999) (hb : b.waitBroken = false) (hc : InDomain c.ts)
    (hk : KeepsClockContract Config.build 3 s) :
    c.ts.second.toNat = (a.ts.second.toNat + 1) % 60 ∧
    ∃ n t, encPivot Config.build c.ts = .ok n ∧ core.run 3 s = .next t ∧ t.pivot = BitVec.ofNat 32 n ∧
      t.count = 0 := by
  let s1 := present a { s with script := ⟨.event .updater, b⟩ :: ⟨.event .updater, c⟩ :: rest }
  let s2 := present b { armUpdater (sleepTarget a.ts.subsecUs) s1 with script := ⟨.event .updater, c⟩ :: rest }
  let s3 := present c { beginUpdate s2 with script := rest }
  have e1 : step s = .next (armUpdater (sleepTarget a.ts.subsecUs) s1) :=
    (step_updater hs (by rw [hp]; rfl)).trans
      ((exec_updArm (s := s1) hp).trans (congrArg _ (arm_of_inRange (s := s1) ha hus)))
  have e2 : step (armUpdater (sleepTarget a.ts.subsecUs) s1) = .next (beginUpdate s2) :=
    (step_updater (i := .updBegin) rfl rfl).trans
      ((exec_updBegin (s := s2) rfl).trans (congrArg _ (if_neg (by show ¬ b.waitBroken = true; simp [hb]))))
  have e3 : step (beginUpdate s2) = .next _ :=
    (step_updater (i := .updCommit) rfl rfl).trans
      ((exec_updCommit (s := s3) rfl).trans (congrArg _ (commit_of_inDomain (s := s3) hc)))
  refine ⟨?_, _, commitPivot _ s3, encPivot_build_of_inDomain hc, by simp only [Host.Core.run, core, e1, e2, e3]; rfl, rfl, rfl⟩
  obtain ⟨rs, hr, hd⟩ := hk
  have h1 : nextOperation s = some .updArm := by simp [nextOperation, nextCause, hs, hp, updaterOp]
  have h2 : nextOperation (armUpdater (sleepTarget a.ts.subsecUs) s1) = some .updBegin := rfl
  have h3 : nextOperation (beginUpdate s2) = some .updCommit := rfl
  have hread : recordsRead 3 s = [(a.ts, false), (c.ts, true)] := by
    simp only [recordsRead, e1, e2, e3, h1, h2, h3]
    rfl
  rw [hread] at hr
  obtain ⟨ra, rs', rfl, ea, hr⟩ := List.map_eq_cons_iff.mp hr
  obtain ⟨rc, rs', rfl, ec, -⟩ := List.map_eq_cons_iff.mp hr
  simp only [Prod.mk.injEq] at ea ec
  obtain ⟨va, pa⟩ := hd.presents ra (by simp)
  obtain ⟨-, pc⟩ := hd.presents rc (by simp)
  have hf := (List.isChain_cons_cons.mp hd.fresh).1
  have := second_of_readsNewSecond va pa pc (by rw [ea.1]; exact ha) (by rw [ec.1]; exact hc.1) ec.2 hf
  rwa [ea.1, ec.1] at this

end Sys2Proof.Laws
end

