-- ==== Sys2Proof/Laws/PerInstr.lean ====
section
/-!
SUPPORT. Statements for every operation as syntax, proved constructor by constructor.
-/

namespace Sys2Proof.Laws.CodeFits

/-- The operation's code fits the width of its format (30_encoding.md R70). -/
def Statement (i : Instr) : Prop := (encode i).code.toNat < 2 ^ (encode i).fmt.width

theorem encMark : Statement .encMark := by simp [Statement, encode, Fmt.width]

theorem encSfid : Statement .encSfid := by simp [Statement, encode, Fmt.width]

theorem encRsvd : Statement .encRsvd := by simp [Statement, encode, Fmt.width]

theorem encHourh : Statement .encHourh := by simp [Statement, encode, Fmt.width]

theorem encHourl : Statement .encHourl := by simp [Statement, encode, Fmt.width]

theorem encMinh : Statement .encMinh := by simp [Statement, encode, Fmt.width]

theorem encMinm : Statement .encMinm := by simp [Statement, encode, Fmt.width]

theorem encMinl : Statement .encMinl := by simp [Statement, encode, Fmt.width]

theorem encWdh : Statement .encWdh := by simp [Statement, encode, Fmt.width]

theorem encWdl : Statement .encWdl := by simp [Statement, encode, Fmt.width]

theorem encChk1 : Statement .encChk1 := by simp [Statement, encode, Fmt.width]

theorem encDayh : Statement .encDayh := by simp [Statement, encode, Fmt.width]

theorem encDaym : Statement .encDaym := by simp [Statement, encode, Fmt.width]

theorem encDayl : Statement .encDayl := by simp [Statement, encode, Fmt.width]

theorem encMonh : Statement .encMonh := by simp [Statement, encode, Fmt.width]

theorem encMonl : Statement .encMonl := by simp [Statement, encode, Fmt.width]

theorem encYrh : Statement .encYrh := by simp [Statement, encode, Fmt.width]

theorem encYrm : Statement .encYrm := by simp [Statement, encode, Fmt.width]

theorem encYrl : Statement .encYrl := by simp [Statement, encode, Fmt.width]

theorem encChk2 : Statement .encChk2 := by simp [Statement, encode, Fmt.width]

theorem encEval (f : BitVec 5) : Statement (.encEval f) := by
  have := f.isLt
  simp only [Statement, encode, Fmt.width, BitVec.toNat_setWidth]
  omega

theorem pw (s : OptSym) : Statement (.pw s) := by
  have := s.code.isLt
  simp only [Statement, encode, Fmt.width, BitVec.toNat_setWidth]
  omega

theorem pivot (w : OptPw) : Statement (.pivot w) := w.code.isLt

theorem rndSample : Statement .rndSample := by simp [Statement, encode, Fmt.width]

theorem updArm : Statement .updArm := by simp [Statement, encode, Fmt.width]

theorem updBegin : Statement .updBegin := by simp [Statement, encode, Fmt.width]

theorem updCommit : Statement .updCommit := by simp [Statement, encode, Fmt.width]

end Sys2Proof.Laws.CodeFits
end

