-- ==== Sys2Proof/Laws/Tone.lean ====
section
/-!
SUPPORT. The range of the samples: a pattern whose magnitude bits are at most those of 1.0 is finite and in [-1, 1].
-/

namespace Sys2Proof.Laws

open Sys2Proof.Machine Sys2Proof.Safety

/-- The magnitude bits of a tone sample are at most those of 1.0 (42_generator.md R153 property 2). -/
theorem sinq_magnitude (p : Config.Params) (n : Nat) : (sinq p n).toNat % 2 ^ 31 ≤ 0x3F800000 := by
  have hm := (Config.freeTone p.fc p.fs n).2.isLt
  have hb : ∀ (b : Bool) (x : BitVec 31), (BitVec.ofBool b ++ x).toNat % 2 ^ 31 = x.toNat := by
    intro b x
    rw [BitVec.toNat_append, ← Nat.shiftLeft_add_eq_or_of_lt x.isLt, Nat.shiftLeft_eq, Nat.mul_add_mod_self_right,
      Nat.mod_eq_of_lt x.isLt]
  rw [sinq, hb, BitVec.toNat_ofNat, Nat.mod_eq_of_lt (by omega)]
  omega

/-- The exponent field as a number. -/
theorem exponent_toNat (w : Word) : (w.extractLsb' 23 8).toNat = w.toNat / 2 ^ 23 % 256 := by
  simp [BitVec.extractLsb', Nat.shiftRight_eq_div_pow]

/-- The fraction field as a number. -/
theorem fraction_toNat (w : Word) : (w.extractLsb' 0 23).toNat = w.toNat % 2 ^ 23 := by
  simp [BitVec.extractLsb']

/-- A significand of 24 bits scaled by an exponent whose pattern is at most that of 1.0. -/
theorem scaled_le (e m : Nat) (hm : m < 2 ^ 23) (h : e * 2 ^ 23 + m ≤ 0x3F800000) :
    (2 ^ 23 + m) * 2 ^ e ≤ 2 ^ 150 := by
  rcases Nat.lt_or_ge e 127 with he | he
  · calc (2 ^ 23 + m) * 2 ^ e ≤ 2 ^ 24 * 2 ^ 126 :=
          Nat.mul_le_mul (by omega) (Nat.pow_le_pow_right (by decide) (by omega))
      _ = 2 ^ 150 := by norm_num
  · obtain rfl : e = 127 := by omega
    obtain rfl : m = 0 := by omega
    norm_num

/-- A magnitude at most that of 1.0 is a value of at most 1. -/
theorem abs_binary32_le_one {w : Word} (h : w.toNat % 2 ^ 31 ≤ 0x3F800000) : |binary32 w| ≤ 1 := by
  have hs : |(if w.getLsbD 31 = true then (-1 : ℚ) else 1)| = 1 := by split <;> simp
  have hm : w.toNat % 2 ^ 23 < 2 ^ 23 := Nat.mod_lt _ (by decide)
  rw [binary32, abs_mul, hs, one_mul, exponent_toNat, fraction_toNat]
  split
  · rw [abs_of_nonneg (by positivity), div_le_one (by positivity)]
    have : w.toNat % 2 ^ 23 ≤ 2 ^ 149 := hm.le.trans (by norm_num)
    exact_mod_cast this
  · rw [abs_of_nonneg (by positivity), div_le_one (by positivity)]
    exact_mod_cast scaled_le _ _ hm (by omega)

/-- A magnitude at most that of 1.0 is no infinity and no NaN. -/
theorem finite32_of_magnitude {w : Word} (h : w.toNat % 2 ^ 31 ≤ 0x3F800000) : Finite32 w := by
  intro hc
  have := congrArg BitVec.toNat hc
  rw [exponent_toNat] at this
  simp at this
  omega

/-- Whatever the free tone is, it is within 2 of the ideal: both lie in [-1, 1]. -/
theorem sinqWithin_two (p : Config.Params) : SinqWithin p 2 := by
  intro n x hx
  have h1 : |((binary32 (sinq p n) : ℚ) : ℝ)| ≤ 1 := by
    exact_mod_cast abs_binary32_le_one (sinq_magnitude p n)
  have h2 : |x| ≤ 1 := by rw [hx]; exact Real.abs_sin_le_one _
  calc |((binary32 (sinq p n) : ℚ) : ℝ) - x| ≤ |((binary32 (sinq p n) : ℚ) : ℝ)| + |x| := abs_sub _ _
    _ ≤ 2 := by linarith

end Sys2Proof.Laws
end

