-- ==== Sys2Proof/Laws/Trace.lean ====
section
/-!
SUPPORT. What a laid-out trace does (30_encoding.md R85): one line, runs one after another, and a row of sample requests.
-/

namespace Sys2Proof.Laws

open Sys2Proof.Machine Sys2Proof.Safety

/-- A line of a trace runs its operation on the state that shows its inputs (R85). -/
theorem step_traceLine {s : State} {i : Instr} {inp : Config.Inputs} {rest : List Slot} (hd : decode (encode i) = .ok i)
    (hs : s.script = traceLine i inp :: rest) : step s = exec i (present inp { s with script := rest }) := by
  simp only [step, hs, stepLaidOut, traceLine, runCause, runWord, hd]

/-- A run is its first step, and the rest from where it ends. -/
theorem run_succ {s t : State} {k : Nat} (h : step s = .next t) :
    core.run (k + 1) s = core.run k t ∧ observe (k + 1) s = t.out.toList ++ observe k t := by
  simp [observe, Host.Core.run, core, h]

/-- Two runs one after another. -/
theorem run_add (a b : Nat) : ∀ {s t : State}, core.run a s = .next t →
    core.run (a + b) s = core.run b t ∧ observe (a + b) s = observe a s ++ observe b t := by
  induction a with
  | zero =>
    intro s t h
    obtain rfl : s = t := Host.Outcome.next.inj h
    simp [observe]
  | succ a ih =>
    intro s t h
    rw [show a + 1 + b = a + b + 1 by omega]
    cases hs : step s with
    | next u =>
      obtain ⟨r1, o1⟩ := run_succ (k := a) hs
      obtain ⟨r2, o2⟩ := run_succ (k := a + b) hs
      obtain ⟨r3, o3⟩ := ih (r1 ▸ h)
      exact ⟨r2.trans r3, by rw [o2, o1, o3, List.append_assoc]⟩
    | fault r => simp [Host.Core.run, core, hs] at h
    | refused r => simp [Host.Core.run, core, hs] at h

/-- `t` has the registers of `s` but for a count of `c`, with `rest` left to run; what the ports and the wires show in `t`
is open. -/
def Counted (s t : State) (c : Word) (rest : List Slot) : Prop :=
  t.pivot = s.pivot ∧ t.count = c ∧ t.updating = s.updating ∧ t.phase = s.phase ∧ t.sleepUs = s.sleepUs ∧
    t.fltCode = s.fltCode ∧ t.tick = s.tick ∧ t.script = rest

/-- The samples of `n` requests with nothing between them: silence after a fault (R152), the placeholder of an update
(R151), or the envelope from the count on (R150). -/
def samplesOf (s : State) (n : Nat) : List Word :=
  if s.fltCode ≠ 0 then List.replicate n 0x00000000
  else if s.updating = true then List.replicate n 0x3F800000
  else (List.range n).map fun k => envelope Config.build s.pivot (s.count.toNat + k)

/-- The samples of one request more: where the renderer does not count. -/
theorem samplesOf_succ_of_not_idle {s : State} (h : ¬ Idle s) (n : Nat) :
    samplesOf s (n + 1) = samplesOf s 1 ++ samplesOf s n := by
  unfold samplesOf
  split
  · simp [List.replicate_succ]
  · have hu : s.updating = true := by_contra fun hu => h ⟨not_not.mp ‹_›, by simpa using hu⟩
    simp [hu, List.replicate_succ]

/-- A row of requests on which the count does not overflow: all of them are answered, and the idle renderer counts them
(R150, R151, R152). -/
theorem run_requests (inps : List Config.Inputs) (rest : List Slot) : ∀ s : State,
    s.script = inps.map (traceLine .rndSample) ++ rest → (Idle s → s.count.toNat + inps.length < 2 ^ 32) →
    ∃ t : State, core.run inps.length s = .next t ∧
      Counted s t (if Idle s then s.count + BitVec.ofNat 32 inps.length else s.count) rest ∧
      observe inps.length s = samplesOf s inps.length := by
  induction inps with
  | nil =>
    intro s hs _
    refine ⟨s, rfl, ⟨rfl, ?_, rfl, rfl, rfl, rfl, rfl, by simpa using hs⟩, ?_⟩
    · split <;> simp
    · simp [observe, samplesOf]
  | cons a inps ih =>
    intro s hs hlt
    let s1 := present a { s with script := inps.map (traceLine .rndSample) ++ rest }
    have h1 : step s = .next (sample Config.build s1) := step_traceLine rfl hs
    obtain ⟨r1, o1⟩ := run_succ (k := inps.length) h1
    simp only [List.length_cons, r1, o1]
    have quiet : ∀ v, ¬ Idle s → sample Config.build s1 = answer v s1 → samplesOf s 1 = [v] →
        ∃ t : State, core.run inps.length (sample Config.build s1) = .next t ∧
          Counted s t (if Idle s then s.count + BitVec.ofNat 32 (inps.length + 1) else s.count) rest ∧
          (sample Config.build s1).out.toList ++ observe inps.length (sample Config.build s1) =
            samplesOf s (inps.length + 1) := by
      intro v hi h hv
      obtain ⟨t, ht, hc, ho⟩ := ih (answer v s1) rfl (fun h0 => absurd h0 hi)
      rw [if_neg (show ¬ Idle (answer v s1) from hi)] at hc
      refine ⟨t, h ▸ ht, by rw [if_neg hi]; exact hc, ?_⟩
      rw [h, ho, samplesOf_succ_of_not_idle hi, hv]
      rfl
    rcases sample_build_cases s1 with ⟨hf, h⟩ | ⟨hf, hu, h⟩ | ⟨hf, hu, hc, -⟩ | ⟨hf, hu, -, h⟩
    · exact quiet _ (fun hi => hf hi.1) h (if_pos hf)
    · exact quiet _ (fun hi => Bool.noConfusion (hu.symm.trans hi.2)) h
        ((if_neg (not_not.mpr hf)).trans (if_pos hu))
    · have := hlt ⟨hf, hu⟩
      have hc : s.count.toNat = 4294967295 := hc
      simp only [List.length_cons] at this
      omega
    · have hi : Idle s := ⟨hf, hu⟩
      have hl := hlt hi
      simp only [List.length_cons] at hl
      have hn : (s.count + 1).toNat = s.count.toNat + 1 := by rw [BitVec.toNat_add]; simp; omega
      obtain ⟨t, ht, hq, ho⟩ := ih (answer (envelope Config.build s1.pivot s1.count.toNat) (countSample s1)) rfl
        (fun _ => by show (s.count + 1).toNat + _ < _; omega)
      rw [if_pos (show Idle (answer _ (countSample s1)) from hi)] at hq
      refine ⟨t, h ▸ ht, ?_, ?_⟩
      · rw [if_pos hi]
        obtain ⟨q1, q2, q⟩ := hq
        refine ⟨q1, q2.trans ?_, q⟩
        show s.count + 1 + BitVec.ofNat 32 inps.length = _
        rw [BitVec.ofNat_add, BitVec.add_assoc, BitVec.add_comm 1]
        rfl
      · rw [h, ho]
        have e : ∀ v, (answer v (countSample s1)).fltCode = s.fltCode ∧ (answer v (countSample s1)).updating = s.updating ∧
            (answer v (countSample s1)).pivot = s.pivot ∧ (answer v (countSample s1)).count = s.count + 1 :=
          fun _ => ⟨rfl, rfl, rfl, rfl⟩
        simp only [samplesOf, e, hi.1, hi.2, hn, List.range_succ_eq_map, List.map_cons, List.map_map, Function.comp_def,
          Nat.add_succ, Nat.succ_add]
        rfl

end Sys2Proof.Laws
end

