-- ==== Sys2Proof/Tests/Slice0.lean ====
section
/-!
SUPPORT. The model's own tests. Expected values come from the tables of 30_encoding.md and from 95_test_vectors.md (the
vector is named in each comment), never from the model. The second part holds, for every statement with hypotheses, a
theorem that shows a concrete case meeting them, one for each clause at a boundary of its range.
-/

namespace Sys2Proof.Tests

open Sys2Proof.Machine Sys2Proof.Safety

/-! ## Helpers -/

/-- The state after, if there is one. -/
def after (o : Host.Outcome State Fault Refusal) : Option State :=
  match o with
  | .next s => some s
  | .fault _ => none
  | .refused _ => none

/-- The reason of a fault of the model. -/
def stuckOn (o : Host.Outcome State Fault Refusal) : Option Fault :=
  match o with
  | .next _ => none
  | .fault r => some r
  | .refused _ => none

/-- The reason of a refusal. -/
def refusedFor (o : Host.Outcome State Fault Refusal) : Option Refusal :=
  match o with
  | .next _ => none
  | .fault _ => none
  | .refused r => some r

/-- The reset state with a record on the port. -/
def reading (ts : Timestamp) : State := { State.reset with ts := ts }

/-- What an operation returns on a record. -/
def returned (i : Instr) (ts : Timestamp) : Option Result := (after (exec i (reading ts))).bind (·.result)

/-- The symbol value an operation returns on a record. -/
def symbolOf (i : Instr) (ts : Timestamp) : Option (BitVec 2) :=
  match returned i ts with
  | some (.symbol (.sym v)) => some v
  | _ => none

/-- The symbol values several operations return on a record. -/
def symbols (is : List Instr) (ts : Timestamp) : List (Option (BitVec 2)) := is.map (symbolOf · ts)

/-- Minutes T1 to T5 of 95_test_vectors.md section 2, at a second. -/
def t1 (second : BitVec 6) : Timestamp := ⟨24, 3, 15, 1, 2, true, 7, second, 0, true⟩
def t2 (second : BitVec 6) : Timestamp := ⟨63, 12, 31, 7, 11, true, 59, second, 0, true⟩
def t3 (second : BitVec 6) : Timestamp := ⟨0, 1, 1, 6, 12, false, 0, second, 0, true⟩
def t4 (second : BitVec 6) : Timestamp := ⟨26, 11, 10, 2, 9, false, 30, second, 0, true⟩
def t5 (second : BitVec 6) : Timestamp := ⟨99, 6, 7, 3, 7, false, 45, second, 0, true⟩

/-- A healthy state with the shared state `S` and a phase. -/
def shared (pivot count : Word) (updating : Bool) (phase : Phase) : State :=
  { State.reset with pivot := pivot, count := count, updating := updating, phase := phase }

/-- What 95_test_vectors.md shows of a state: the shared state, the phase, the fault code and the sample. -/
structure Shown where
  pivot    : Word
  count    : Word
  updating : Bool
  phase    : Phase
  fltCode  : BitVec 3
  out      : Option Word
deriving DecidableEq, Repr

/-- What a step leaves of it. -/
def summary (o : Host.Outcome State Fault Refusal) : Option Shown :=
  (after o).map fun s => ⟨s.pivot, s.count, s.updating, s.phase, s.fltCode, s.out⟩

/-! ## Formedness -/

/-- The fragment index has 20 values (R73). -/
theorem test_wf_eval_index : (Instr.encEval 19).wf = true ∧ (Instr.encEval 20).wf = false := by decide

/-- The pulse widths are the table's four (R140). -/
theorem test_wf_pulse_width : (Instr.pivot (.ms 400)).wf = true ∧ (Instr.pivot (.ms 150)).wf = false ∧
    (Instr.pivot (.ms 0)).wf = false ∧ (Instr.pivot .absent).wf = true := by decide

/-! ## Decoding: words written out from the tables of R72, R76, R79, R81 -/

theorem test_decode_fragments_low :
    decode ⟨.frag, 0b00000⟩ = .ok .encMark ∧ decode ⟨.frag, 0b00001⟩ = .ok .encSfid ∧
    decode ⟨.frag, 0b00010⟩ = .ok .encRsvd ∧ decode ⟨.frag, 0b00011⟩ = .ok .encHourh ∧
    decode ⟨.frag, 0b00100⟩ = .ok .encHourl ∧ decode ⟨.frag, 0b00101⟩ = .ok .encMinh ∧
    decode ⟨.frag, 0b00110⟩ = .ok .encMinm ∧ decode ⟨.frag, 0b00111⟩ = .ok .encMinl ∧
    decode ⟨.frag, 0b01000⟩ = .ok .encWdh ∧ decode ⟨.frag, 0b01001⟩ = .ok .encWdl := ⟨rfl, rfl, rfl, rfl, rfl, rfl, rfl, rfl, rfl, rfl⟩

theorem test_decode_fragments_high :
    decode ⟨.frag, 0b01010⟩ = .ok .encChk1 ∧ decode ⟨.frag, 0b01011⟩ = .ok .encDayh ∧
    decode ⟨.frag, 0b01100⟩ = .ok .encDaym ∧ decode ⟨.frag, 0b01101⟩ = .ok .encDayl ∧
    decode ⟨.frag, 0b01110⟩ = .ok .encMonh ∧ decode ⟨.frag, 0b01111⟩ = .ok .encMonl ∧
    decode ⟨.frag, 0b10000⟩ = .ok .encYrh ∧ decode ⟨.frag, 0b10001⟩ = .ok .encYrm ∧
    decode ⟨.frag, 0b10010⟩ = .ok .encYrl ∧ decode ⟨.frag, 0b10011⟩ = .ok .encChk2 := ⟨rfl, rfl, rfl, rfl, rfl, rfl, rfl, rfl, rfl, rfl⟩

theorem test_decode_eval : decode ⟨.eval, 0b00000⟩ = .ok (.encEval 0) ∧
    decode ⟨.eval, 0b10011⟩ = .ok (.encEval 19) := ⟨rfl, rfl⟩

/-- W1 to W5: F-SYM and F-PW as 95_test_vectors.md writes them. -/
theorem test_decode_symbols : decode ⟨.sym, 0b100⟩ = .ok (.pw .blank) ∧
    decode ⟨.sym, 0b000⟩ = .ok (.pw (.sym 0)) ∧ decode ⟨.sym, 0b001⟩ = .ok (.pw (.sym 1)) ∧
    decode ⟨.sym, 0b010⟩ = .ok (.pw (.sym 2)) ∧ decode ⟨.sym, 0b011⟩ = .ok (.pw (.sym 3)) := ⟨rfl, rfl, rfl, rfl, rfl⟩

theorem test_decode_pulse_widths : decode ⟨.pw, 0⟩ = .ok (.pivot .absent) ∧
    decode ⟨.pw, 1#1 ++ 0x064#9⟩ = .ok (.pivot (.ms 100)) ∧ decode ⟨.pw, 1#1 ++ 0x0C8#9⟩ = .ok (.pivot (.ms 200)) ∧
    decode ⟨.pw, 1#1 ++ 0x12C#9⟩ = .ok (.pivot (.ms 300)) ∧
    decode ⟨.pw, 1#1 ++ 0x190#9⟩ = .ok (.pivot (.ms 400)) := ⟨rfl, rfl, rfl, rfl, rfl⟩

theorem test_decode_steps : decode ⟨.step, 0b00⟩ = .ok .rndSample ∧ decode ⟨.step, 0b01⟩ = .ok .updArm ∧
    decode ⟨.step, 0b10⟩ = .ok .updBegin ∧ decode ⟨.step, 0b11⟩ = .ok .updCommit := ⟨rfl, rfl, rfl, rfl⟩

/-- What no format produces is rejected by name (R72, R73, R79). -/
theorem test_decode_rejects : decode ⟨.frag, 20⟩ = .error .unreachableFragment ∧
    decode ⟨.eval, 31⟩ = .error .unreachableFragment ∧ decode ⟨.sym, 0b101⟩ = .error .unproducedSymbol ∧
    decode ⟨.sym, 0b111⟩ = .error .unproducedSymbol ∧ decode ⟨.pw, 0b0000000001⟩ = .error .danglingMilliseconds ∧
    decode ⟨.pw, 0b1000000000⟩ = .error .noPulseWidth ∧ decode ⟨.pw, 0b1001100101⟩ = .error .noPulseWidth ∧
    decode ⟨.step, 4⟩ = .error .codeTooWide ∧ decode ⟨.frag, 32⟩ = .error .codeTooWide := ⟨rfl, rfl, rfl, rfl, rfl, rfl, rfl, rfl, rfl⟩

/-- The encoder writes the words of W4 and of the blank (R72, R79). -/
theorem test_encode_operands : encode (.pivot (.ms 300)) = ⟨.pw, 0b1100101100⟩ ∧
    encode (.pw .blank) = ⟨.sym, 0b100⟩ ∧ encode (.encEval 19) = ⟨.eval, 0b10011⟩ := by decide

/-- The table's view: a row by its width, or its width in bytes (log entry 6). -/
theorem test_decode_table_word : decodeTableWord 5 10 = some .encChk1 ∧ decodeTableWord 8 19 = some .encChk2 ∧
    decodeTableWord 2 3 = some .updCommit ∧ decodeTableWord 3 4 = some (.pw .blank) ∧
    decodeTableWord 10 0x264 = some (.pivot (.ms 100)) ∧ decodeTableWord 16 0 = some (.pivot .absent) ∧
    decodeTableWord 8 20 = none ∧ decodeTableWord 16 0x8000 = none := by decide

/-! ## The encoder -/

/-- E1. -/
theorem test_mark : returned .encMark (t1 0) = some (.symbol .blank) ∧
    returned .encMark (t1 20) = some (.symbol .blank) ∧ returned .encMark (t1 40) = some (.symbol .blank) := by decide

/-- E2 to E4: the id is 2, not 3. -/
theorem test_sfid : symbolOf .encSfid (t1 1) = some 0 ∧ symbolOf .encSfid (t1 21) = some 1 ∧
    symbolOf .encSfid (t1 41) = some 2 := by decide

/-- E5. -/
theorem test_rsvd : symbolOf .encRsvd (t2 2) = some 0 ∧ symbolOf .encRsvd (t2 42) = some 0 := by decide

/-- E6. -/
theorem test_hour : [1, 3, 4, 7, 8, 11, 12].map (fun h => symbols [.encHourh, .encHourl] { t1 3 with hour12 := h }) =
    [[some 0, some 1], [some 0, some 3], [some 1, some 0], [some 1, some 3], [some 2, some 0], [some 2, some 3],
      [some 3, some 0]] := by decide

/-- E7. -/
theorem test_minute : [0, 7, 15, 16, 30, 45, 59].map
      (fun m => symbols [.encMinh, .encMinm, .encMinl] { t1 5 with minute := m }) =
    [[some 0, some 0, some 0], [some 0, some 1, some 3], [some 0, some 3, some 3], [some 1, some 0, some 0],
      [some 1, some 3, some 2], [some 2, some 3, some 1], [some 3, some 2, some 3]] := by decide

/-- E8. -/
theorem test_weekday : [1, 2, 3, 4, 5, 6, 7].map (fun d => symbols [.encWdh, .encWdl] { t1 8 with weekday := d }) =
    [[some 0, some 1], [some 0, some 2], [some 0, some 3], [some 1, some 0], [some 1, some 1], [some 1, some 2],
      [some 1, some 3]] := by decide

/-- E17. -/
theorem test_day : [1, 15, 16, 28, 31].map (fun d => symbols [.encDayh, .encDaym, .encDayl] { t1 11 with day := d }) =
    [[some 0, some 0, some 1], [some 0, some 3, some 3], [some 1, some 0, some 0], [some 1, some 3, some 0],
      [some 1, some 3, some 3]] := by decide

/-- E18. -/
theorem test_month : [1, 3, 4, 8, 11, 12].map (fun m => symbols [.encMonh, .encMonl] { t1 14 with month := m }) =
    [[some 0, some 1], [some 0, some 3], [some 1, some 0], [some 2, some 0], [some 2, some 3],
      [some 3, some 0]] := by decide

/-- E19. -/
theorem test_year : [0, 24, 26, 47, 63].map (fun y => symbols [.encYrh, .encYrm, .encYrl] { t1 16 with yy := y }) =
    [[some 0, some 0, some 0], [some 1, some 2, some 0], [some 1, some 2, some 2], [some 2, some 3, some 3],
      [some 3, some 3, some 3]] := by decide

/-- E9 to E15, on both sides of one-bit flips. -/
theorem test_chk1_flips : symbolOf .encChk1 (t1 10) = some 3 ∧
    symbolOf .encChk1 { t1 10 with hour12 := 3 } = some 2 ∧ symbolOf .encChk1 { t1 10 with minute := 5 } = some 2 ∧
    symbolOf .encChk1 { t1 10 with weekday := 5 } = some 2 ∧ symbolOf .encChk1 (t1 30) = some 2 ∧
    symbolOf .encChk1 (t1 50) = some 3 ∧ symbolOf .encChk1 { t1 10 with pm := false } = some 1 := by decide

/-- E14 and E16: the build's `SRC_C = 2`, and T3 across the minute. -/
theorem test_chk1_codes : encChk1 { Config.build with srcC := 2 } (t1 50) = .sym 2 ∧
    symbolOf .encChk1 (t3 10) = some 0 ∧ symbolOf .encChk1 (t3 30) = some 1 ∧
    symbolOf .encChk1 (t3 50) = some 0 := by decide

/-- E20 to E22, and the year's top bit of T5. -/
theorem test_chk2 : symbolOf .encChk2 (t1 19) = some 0 ∧ symbolOf .encChk2 (t2 59) = some 1 ∧
    symbolOf .encChk2 { t1 19 with day := 14 } = some 1 ∧ symbolOf .encChk2 (t5 19) = some 2 := by decide

/-- S2, E23, E24: the source's scenario, and an impossible date. -/
theorem test_eval : symbolOf (.encEval 1) (t1 21) = some 1 ∧ symbolOf (.encEval 19) (t1 59) = some 0 ∧
    returned (.encEval 0) (t1 0) = some (.symbol .blank) ∧
    symbolOf (.encEval 13) { t1 13 with month := 2, day := 31, weekday := 4 } = some 3 := by decide

/-- F1 to F4, F6, F7. -/
theorem test_eval_faults : returned (.encEval 3) (t5 3) = some (.raised .yearOutOfRange) ∧
    returned (.encEval 3) { t1 3 with yy := 64 } = some (.raised .yearOutOfRange) ∧
    returned (.encEval 3) { t1 3 with month := 0 } = some (.raised (.fieldOutOfRange .month)) ∧
    returned (.encEval 0) (t1 60) = some (.raised (.fieldOutOfRange .second)) ∧
    returned (.encEval 3) { t5 3 with month := 0, ok := false } = some (.raised .clockFault) ∧
    returned (.encEval 3) { t5 3 with month := 0 } = some (.raised (.fieldOutOfRange .month)) := by decide

/-- The packed super-frames A, B, C of T1 and T2 (95_test_vectors.md section 2). -/
theorem test_frame_words_t1_t2 :
    (frameWord Config.build (t1 0)).toOption = some 0x00871CF360 ∧
    (frameWord Config.build (t1 21)).toOption = some 0x108718F360 ∧
    (frameWord Config.build (t1 59)).toOption = some 0x20871CF360 ∧
    (frameWord Config.build (t2 19)).toOption = some 0x02FB7DFCFD ∧
    (frameWord Config.build (t2 20)).toOption = some 0x12FB79FCFD ∧
    (frameWord Config.build (t2 40)).toOption = some 0x22FB7DFCFD := by decide +kernel

/-- R85, R80: FRAME from second 63 asks for 60 to 79, each beyond the minute (what stands for 64 to 79: log entry 25). -/
theorem test_frame_beyond_minute :
    frame Config.build (t1 63) = List.replicate 20 (.error (.fieldOutOfRange .second)) := by decide +kernel

/-- R7, R10: FC of a build whose F_DIV does not divide F_NOM is the quotient itself (log entry 26). -/
theorem test_fc_exact : ({ Config.build with fDiv := 3 } : Config.Params).fc = 68500 / 3 := by
  norm_num [Config.Params.fc, Config.build]

/-- Those of T3 and T4, T5 under the truncating policy, and T1 C with `SRC_C = 2`. -/
theorem test_frame_words_t3_t4_t5 :
    (frameWord Config.build (t3 0)).toOption = some 0x0300601100 ∧
    (frameWord Config.build (t3 20)).toOption = some 0x1300641100 ∧
    (frameWord Config.build (t4 40)).toOption = some 0x225E24AB68 ∧
    (frameWord Config.build (t5 0)).toOption = none ∧
    (frameWord { Config.build with yearPolicy := .truncate } (t5 0)).toOption = some 0x01ED34768E ∧
    (frameWord { Config.build with srcC := 2 } (t1 40)).toOption = some 0x208718F360 := by decide +kernel

/-- P1: what a receiver reads back from T1's first super-frame. -/
theorem test_reassembly : reassemble (received Config.build (t1 0)) = ⟨2, 7, 1, 15, 3, 24, 1⟩ := by decide +kernel

/-! ## The envelope mapping -/

/-- W1 to W5. -/
theorem test_pw : returned (.pw .blank) (t1 0) = some (.pulse .absent) ∧
    returned (.pw (.sym 0)) (t1 0) = some (.pulse (.ms 100)) ∧ returned (.pw (.sym 1)) (t1 0) = some (.pulse (.ms 200)) ∧
    returned (.pw (.sym 2)) (t1 0) = some (.pulse (.ms 300)) ∧
    returned (.pw (.sym 3)) (t1 0) = some (.pulse (.ms 400)) := by decide

/-- W1 to W5. -/
theorem test_pivot : returned (.pivot .absent) (t1 0) = some (.pivot 0) ∧
    returned (.pivot (.ms 100)) (t1 0) = some (.pivot 4410) ∧ returned (.pivot (.ms 200)) (t1 0) = some (.pivot 8820) ∧
    returned (.pivot (.ms 300)) (t1 0) = some (.pivot 13230) ∧
    returned (.pivot (.ms 400)) (t1 0) = some (.pivot 17640) := by decide

/-- W6 and W8: another rate, and one whose division truncates. -/
theorem test_pivot_rates :
    [.absent, .ms 100, .ms 200, .ms 300, .ms 400].map (pivotOf { Config.build with fs := 48000 }) =
      [0, 4800, 9600, 14400, 19200] ∧
    [.absent, .ms 100, .ms 200, .ms 300, .ms 400].map (pivotOf { Config.build with fs := 11025 }) =
      [0, 1102, 2205, 3307, 4410] := by decide

/-! ## The renderer -/

/-- X3, X4, X7, X10: mute, the last mute sample, the placeholder, the overflow. -/
theorem test_sample :
    summary (exec .rndSample (shared 4410 0 false .sleeping)) = some ⟨4410, 1, false, .sleeping, 0, some 0⟩ ∧
    summary (exec .rndSample (shared 4410 4409 false .ready)) = some ⟨4410, 4410, false, .ready, 0, some 0⟩ ∧
    summary (exec .rndSample (shared 8820 100 true .updating)) =
      some ⟨8820, 100, true, .updating, 0, some 0x3F800000⟩ ∧
    summary (exec .rndSample (shared 4410 4294967295 false .sleeping)) =
      some ⟨4410, 4294967295, false, .halted, 5, some 0⟩ ∧
    summary (exec .rndSample { shared 4410 5000 false .halted with fltCode := 3 }) =
      some ⟨4410, 5000, false, .halted, 3, some 0⟩ := by decide

/-- X1, X5, X9, X12: tone samples, and the literal reading `K_IDX = 1`. -/
theorem test_sample_tone :
    (after (exec .rndSample State.reset)).map (fun s => (s.out, s.count)) = some (some (sinq Config.build 0), 1) ∧
    (after (exec .rndSample (shared 4410 4410 false .ready))).map (fun s => (s.out, s.count)) =
      some (some (sinq Config.build 4410), 4411) ∧
    (after (exec .rndSample (shared 17640 44100 false .ready))).map (fun s => (s.out, s.count)) =
      some (some (sinq Config.build 44100), 44101) ∧
    (sample { Config.build with kIdx := 1 } (shared 4410 4409 false .ready)).out =
      some (sinq { Config.build with kIdx := 1 } 4410) := ⟨rfl, rfl, rfl, rfl⟩

/-- P5: a counter of four bits. -/
theorem test_sample_narrow_count :
    (sample { Config.build with cntW := 4 } (shared 0 14 false .sleeping)).count = 15 ∧
    (sample { Config.build with cntW := 4 } (shared 0 15 false .sleeping)).fltCode = 5 := by decide

/-! ## The updater -/

/-- U1 to U4. -/
theorem test_arm : [250000, 0, 999999, 30120].map
      (fun us => (after (exec .updArm (reading { t1 0 with subsecUs := us }))).map fun s => (s.sleepUs, s.phase)) =
    [some (750000, .sleeping), some (1000000, .sleeping), some (1, .sleeping), some (969880, .sleeping)] := by decide

/-- U5, U6. -/
theorem test_arm_faults :
    summary (exec .updArm (reading { t1 0 with ok := false })) = some ⟨0, 0, false, .halted, 1, none⟩ ∧
    summary (exec .updArm (reading { t1 0 with subsecUs := 1000000 })) = some ⟨0, 0, false, .halted, 2, none⟩ := by
  decide

/-- U7, and the interrupted wait (R191). -/
theorem test_begin :
    summary (exec .updBegin (shared 13230 44100 false .sleeping)) = some ⟨13230, 44100, true, .updating, 0, none⟩ ∧
    summary (exec .updBegin { shared 13230 44100 false .sleeping with waitBroken := true }) =
      some ⟨13230, 44100, false, .halted, 1, none⟩ := by decide

/-- U8 to U10. -/
theorem test_commit :
    summary (exec .updCommit { shared 13230 44100 true .updating with ts := t1 21 }) =
      some ⟨8820, 0, false, .ready, 0, none⟩ ∧
    summary (exec .updCommit { shared 8820 44103 true .updating with ts := t1 40 }) =
      some ⟨0, 0, false, .ready, 0, none⟩ ∧
    summary (exec .updCommit { shared 4410 44100 true .updating with ts := t1 3 }) =
      some ⟨4410, 0, false, .ready, 0, none⟩ := by decide

/-- U11, U12. -/
theorem test_commit_faults :
    summary (exec .updCommit { shared 4410 44100 true .updating with ts := t5 3 }) =
      some ⟨4410, 44100, false, .halted, 3, none⟩ ∧
    summary (exec .updCommit { shared 4410 44100 true .updating with ts := { t1 3 with ok := false } }) =
      some ⟨4410, 44100, false, .halted, 1, none⟩ := by decide

/-- U13. -/
theorem test_halted_not_enabled :
    stuckOn (exec .updArm (shared 0 0 false .halted)) = some (.notEnabled .updArm .halted) ∧
    stuckOn (exec .updBegin (shared 0 0 false .halted)) = some (.notEnabled .updBegin .halted) ∧
    stuckOn (exec .updCommit (shared 0 0 false .halted)) = some (.notEnabled .updCommit .halted) := by decide

/-! ## Other builds, and the clock's contract -/

/-- R7: `FRAG_LEN` and `SLOTS` are parameters, here of a minute of three super-frames of ten slots (by hand, R73, R101). -/
theorem test_build_of_thirty_slots :
    (frag { Config.build with slots := 30, fragLen := 10 } (t1 29)).val = 9 ∧
    recordFault { Config.build with slots := 30, fragLen := 10 } (t1 29) = none ∧
    recordFault { Config.build with slots := 30, fragLen := 10 } (t1 30) = some (.fieldOutOfRange .second) ∧
    ({ Config.build with slots := 30, fragLen := 10 } : Config.Params).wf := by
  refine ⟨?_, ?_, ?_, ?_⟩ <;> decide

/-- R23: after 59 comes 0, and the fields before it change as civil time requires (by hand: the ends of 28 February of a
leap year, and of a year). -/
theorem test_next_second :
    (⟨2024, 2, 28, 3, 23, 59, 59, 7, 8⟩ : CivilTime).nextSecond = ⟨2024, 2, 29, 4, 0, 0, 0, 0, 8⟩ ∧
    (⟨2063, 12, 31, 7, 23, 59, 59, 7, 8⟩ : CivilTime).nextSecond = ⟨2064, 1, 1, 1, 0, 0, 0, 0, 8⟩ := by decide

/-- The records of 14:07:20.25 and 14:07:21 on a Friday, as P3 has UPD.ARM and UPD.COMMIT read them. -/
def armRecord : Timestamp := ⟨24, 3, 15, 5, 2, true, 7, 20, 250000, true⟩
def commitRecord : Timestamp := ⟨24, 3, 15, 5, 2, true, 7, 21, 0, true⟩

/-- P3, steps 1, 5 and 7, laid out from reset as turns of the updater. -/
def firstCycle : State :=
  { State.reset with
    script := [⟨.event .updater, ⟨armRecord, false⟩⟩, ⟨.event .updater, ⟨commitRecord, false⟩⟩,
      ⟨.event .updater, ⟨commitRecord, false⟩⟩] }

/-- The contract is kept by that cycle: duties 1 to 8 can all be met. -/
theorem met_KeepsClockContract : KeepsClockContract Config.build 3 firstCycle :=
  ⟨[⟨⟨2024, 3, 15, 5, 14, 7, 20, 250000, 8⟩, armRecord, false⟩, ⟨⟨2024, 3, 15, 5, 14, 7, 21, 0, 8⟩, commitRecord, true⟩],
    by decide, ⟨by decide, by decide, by decide⟩⟩

/-- Reading the old second at the commit breaks duty 8 (R226, early). -/
theorem test_early_commit_breaks_duty :
    ¬ ReadsNewSecond ⟨⟨2024, 3, 15, 5, 14, 7, 20, 250000, 8⟩, armRecord, false⟩
      ⟨⟨2024, 3, 15, 5, 14, 7, 20, 999999, 8⟩, armRecord, true⟩ := by decide

/-! ## Stepping -/

/-- A placed word runs in the very next step, from reset. -/
theorem test_step_placed :
    (after (step (State.reset.withFetchWord 8 0))).bind (·.result) = some (.symbol .blank) ∧
    (after (step (State.reset.withFetchWord 8 1))).bind (·.result) = some (.symbol (.sym 0)) ∧
    (after (step (State.reset.withFetchWord 16 0x264))).bind (·.result) = some (.pivot 4410) ∧
    (after (step (State.reset.withFetchWord 2 2))).map (·.phase) = some .updating := by decide

/-- A word that is no operation is refused by name. -/
theorem test_step_refuses :
    refusedFor (step (State.reset.withFetchWord 8 20)) = some (.illegalCode .unreachableFragment) ∧
    refusedFor (step (State.reset.withFetchWord 3 5)) = some (.illegalCode .unproducedSymbol) := by decide

/-- P4, steps 5 to 7: a fault lasts until reset. -/
theorem test_reset_event :
    summary (runEvent .sampleReq { shared 4410 44100 false .halted with fltCode := 3 }) =
      some ⟨4410, 44100, false, .halted, 3, some 0⟩ ∧
    summary (runEvent .reset { shared 4410 44100 false .halted with fltCode := 3 }) =
      some ⟨0, 0, false, .ready, 0, none⟩ := by decide

/-- X3, U7, X7 as laid-out events: the observation (R182) of a mute sample, a wake, a placeholder. -/
theorem test_observe :
    observe 3 { shared 4410 0 false .sleeping with
      script := [.sampleReq, .updater, .sampleReq].map fun e => ⟨.event e, ⟨t1 10, false⟩⟩ } =
    [0x00000000, 0x3F800000] := by decide

/-! ## Witnesses: the hypotheses of the statements are met -/

theorem met_DecodeOfEncode : (Instr.encEval 19).wf = true ∧ (Instr.pw (.sym 3)).wf = true ∧
    (Instr.pivot .absent).wf = true ∧ (Instr.pivot (.ms 400)).wf = true ∧ Instr.updCommit.wf = true := by decide

theorem met_EncodeOfDecode : decode ⟨.eval, 19⟩ = .ok (.encEval 19) ∧ decode ⟨.sym, 4⟩ = .ok (.pw .blank) := ⟨rfl, rfl⟩

/-- A state with one stimulus laid out. -/
def laidOut (c : Cause) (s : State) : State := { s with script := [⟨c, ⟨t1 10, false⟩⟩] }

theorem met_StepRunsDecodedWord :
    (laidOut (.op ⟨.frag, 10⟩) State.reset).script = ⟨.op ⟨.frag, 10⟩, ⟨t1 10, false⟩⟩ :: [] ∧
    decode ⟨.frag, 10⟩ = .ok .encChk1 := ⟨rfl, rfl⟩

/-- Every clause of StepRunsEvent: the three events, the updater in each phase. -/
theorem met_StepRunsEvent (e : Config.Event) (ph : Phase) :
    (laidOut (.event e) (shared 0 0 false ph)).script = ⟨.event e, ⟨t1 10, false⟩⟩ :: [] ∧
    (laidOut (.event e) (shared 0 0 false ph)).phase = ph := ⟨rfl, rfl⟩

theorem met_FreeStepCompletes : State.reset.script = [] := rfl

/-- Both clauses of PlacedWordRuns. -/
theorem met_PlacedWordRuns : decodeTableWord 8 10 = some .encChk1 ∧ enablingPhase .encChk1 = none ∧
    decodeTableWord 2 3 = some .updCommit ∧ enablingPhase .updCommit = some .updating := by decide

/-- Records of the domain at the first and the last second, and at both ends of the year. -/
theorem met_InDomain : InDomain (t1 0) ∧ InDomain (t2 59) ∧ InDomain (t3 20) ∧ InDomain (t4 40) := by decide

theorem met_FrameMarkerBlank : InDomain (reading (t1 40)).ts ∧ (reading (t1 40)).ts.second = 40 := by decide

theorem met_SuperFrameIdRow : (reading (t1 1)).ts.second = 1 ∧ (reading (t1 21)).ts.second = 21 ∧
    (reading (t1 41)).ts.second = 41 := by decide

/-- The three ranges of CheckRowOne at both ends, and that none holds at 0 and 60. -/
theorem met_CheckRowOne :
    (∀ k ∈ [1, 20], 1 ≤ (t1 k).second.toNat ∧ (t1 k).second.toNat ≤ 20) ∧
    (∀ k ∈ [21, 40], 21 ≤ (t1 k).second.toNat ∧ (t1 k).second.toNat ≤ 40) ∧
    (∀ k ∈ [41, 59], 41 ≤ (t1 k).second.toNat ∧ (t1 k).second.toNat ≤ 59) ∧
    (t1 0).second.toNat < 1 ∧ 59 < (t1 60).second.toNat := by decide

theorem met_EvalDispatchesOnSecond : InDomain (reading (t1 59)).ts ∧
    decode ⟨.frag, BitVec.ofNat 10 ((reading (t1 59)).ts.second.toNat % 20)⟩ = .ok .encChk2 := ⟨by decide, rfl⟩

/-- Each clause of EvalFaultPriority is reached: F5 and its neighbours, and the last year of the domain. -/
theorem met_EvalFaultPriority :
    returned (.encEval 0) { t1 0 with ok := false } = some (.raised .clockFault) ∧
    returned (.encEval 0) { t1 0 with month := 13 } = some (.raised (.fieldOutOfRange .month)) ∧
    returned (.encEval 0) { t1 0 with day := 0 } = some (.raised (.fieldOutOfRange .day)) ∧
    returned (.encEval 0) { t1 0 with weekday := 0 } = some (.raised (.fieldOutOfRange .weekday)) ∧
    returned (.encEval 0) { t1 0 with hour12 := 13 } = some (.raised (.fieldOutOfRange .hour12)) ∧
    returned (.encEval 0) { t1 0 with hour12 := 0 } = some (.raised (.fieldOutOfRange .hour12)) ∧
    returned (.encEval 0) { t1 0 with minute := 60 } = some (.raised (.fieldOutOfRange .minute)) ∧
    returned (.encEval 0) { t1 60 with yy := 64 } = some (.raised (.fieldOutOfRange .second)) ∧
    returned (.encEval 0) { t1 0 with yy := 64 } = some (.raised .yearOutOfRange) ∧
    returned (.encEval 0) { t1 0 with yy := 63 } = some (.symbol .blank) := by decide

theorem met_TruncatingBuildEncodesYear : (t5 3).ok = true ∧ FieldsInRange (t5 3) ∧ 63 < (t5 3).yy.toNat := by decide

/-- 14:07:21 on a Friday of a year, and the record the adapter owes for it. -/
def civil (year : Nat) : CivilTime := ⟨year, 3, 15, 5, 14, 7, 21, 250000, 8⟩
def presented (yy : BitVec 7) (ok : Bool) : Timestamp := ⟨yy, 3, 15, 5, 2, true, 7, 21, 250000, ok⟩

/-- The three clauses of ContractYears at their ends. -/
theorem met_ContractYears : (civil 2000).valid ∧ Presents Config.build (civil 2000) (presented 0 true) ∧
    Presents Config.build (civil 2063) (presented 63 true) ∧ Presents Config.build (civil 2064) (presented 64 true) ∧
    Presents Config.build (civil 2127) (presented 127 true) ∧ Presents Config.build (civil 2128) (presented 0 false) ∧
    Presents Config.build (civil 1999) (presented 0 false) := by
  refine ⟨?_, ?_, ?_, ?_, ?_, ?_, ?_⟩ <;> decide

theorem met_FieldsRecoveredFromFrame : InDomain (t2 59) ∧ (t5 0).ok = true ∧ FieldsInRange (t5 0) := by decide

/-- The three ranges of OneBitFlipsParity at both ends, and the highest bit of an operand of each parity. -/
theorem met_OneBitFlipsParity :
    (∀ k ∈ [1, 20], 1 ≤ (t1 k).second.toNat ∧ (t1 k).second.toNat ≤ 20) ∧
    (∀ k ∈ [21, 40], 21 ≤ (t1 k).second.toNat ∧ (t1 k).second.toNat ≤ 40) ∧
    (∀ k ∈ [41, 59], 41 ≤ (t1 k).second.toNat ∧ (t1 k).second.toNat ≤ 59) ∧
    p10 { Config.build with srcC := Config.build.srcC ^^^ BitVec.twoPow 2 1 } (t1 59) ≠ p10 Config.build (t1 59) ∧
    p10 Config.build { t1 10 with hour12 := (t1 10).hour12 ^^^ BitVec.twoPow 4 3 } ≠ p10 Config.build (t1 10) ∧
    p19 { t1 10 with yy := (t1 10).yy ^^^ BitVec.twoPow 7 5 } ≠ p19 (t1 10) := by decide

theorem met_EvalIsPure : InDomain (reading (t1 21)).ts ∧
    ({ shared 4410 7 true .updating with ts := { t1 21 with subsecUs := 999999 } } : State).ts =
      { (reading (t1 21)).ts with subsecUs := 999999 } := by decide

theorem met_SuperFramesRepeat : InDomain (t2 0) ∧ (0 < 20 ∧ 0 ≠ 1 ∧ 0 ≠ 10) ∧ (19 < 20 ∧ 19 ≠ 1 ∧ 19 ≠ 10) := by
  decide

/-- The fragments PulseWidthsByFragment names. -/
theorem met_PulseWidthsByFragment :
    (encPw Config.build (t1 40)).toOption = some .absent ∧ (encPw Config.build (t1 41)).toOption = some (.ms 300) ∧
    (encPw Config.build (t1 2)).toOption = some (.ms 100) ∧ (encPw Config.build (t2 8)).toOption = some (.ms 200) ∧
    (encPw Config.build (t1 11)).toOption = some (.ms 100) ∧ (encPw Config.build (t2 19)).toOption = some (.ms 200) ∧
    (encPw Config.build (t2 18)).toOption = some (.ms 400) ∧ InDomain (t1 40) ∧ InDomain (t2 18) ∧
    InDomain (t1 11) ∧ InDomain (t2 19) := by decide

theorem met_PivotMonotone : (10 ≤ 44100 ∧ (0 : BitVec 2) < 3) ∧ (10 ≤ 10 ∧ (2 : BitVec 2) < 3) := by decide

/-- The four paths of SampleByPath, at the counter's last two values. -/
theorem met_SampleByPath : Idle (shared 0 4294967294 false .ready) ∧
    (shared 0 4294967294 false .ready).count.toNat ≠ 2 ^ 32 - 1 ∧
    (shared 0 4294967295 false .ready).count.toNat = 2 ^ 32 - 1 ∧ (shared 0 0 true .updating).updating = true ∧
    ({ shared 0 0 false .halted with fltCode := 5 } : State).fltCode ≠ 0 := by decide

theorem met_CountOverflowFaults : Idle (shared 17640 0xFFFFFFFF false .ready) ∧
    (shared 17640 0xFFFFFFFF false .ready).count = 0xFFFFFFFF := by decide

theorem met_EnvelopeOfSecond : Idle (shared 13230 0 false .sleeping) ∧ (shared 13230 0 false .sleeping).count = 0 ∧
    13231 < 2 ^ 32 := by decide

theorem met_PlaceholdersChangeNothing : (shared 8820 100 true .updating).fltCode = 0 ∧
    (shared 8820 100 true .updating).phase = .updating ∧ (shared 8820 100 true .updating).updating = true := by decide

/-- A build with a counter of four bits, and both clauses of SampleUnderParameters where they meet. -/
theorem met_SampleUnderParameters : ({ Config.build with cntW := 4, kIdx := 1 } : Config.Params).wf ∧
    Idle (shared 4410 15 false .ready) ∧ (shared 4410 15 false .ready).count.toNat < 2 ^ 4 ∧
    (shared 4410 15 false .ready).count.toNat = 2 ^ 4 - 1 ∧ (shared 4410 14 false .ready).count.toNat ≠ 2 ^ 4 - 1 := by
  refine ⟨?_, ?_, ?_, ?_, ?_⟩ <;> decide

theorem met_MutedUntilReset :
    ∃ t, step (laidOut (.event .sampleReq) { shared 1 1 false .halted with fltCode := 3 }) = .next t ∧
      (laidOut (.event .sampleReq) { shared 1 1 false .halted with fltCode := 3 }).fltCode ≠ 0 ∧
      nextCause (laidOut (.event .sampleReq) { shared 1 1 false .halted with fltCode := 3 }) ≠ .event .reset :=
  ⟨_, rfl, by decide, by decide⟩

/-- The three clauses of ArmSetsSleepTarget, at both ends of the last. -/
theorem met_ArmSetsSleepTarget : (reading (t1 0)).phase = .ready ∧ (reading { t1 0 with ok := false }).ts.ok = false ∧
    999999 < (reading { t1 0 with subsecUs := 1000000 }).ts.subsecUs.toNat ∧
    ¬ 999999 < (reading { t1 0 with subsecUs := 999999 }).ts.subsecUs.toNat ∧
    ¬ 999999 < (reading (t1 0)).ts.subsecUs.toNat := by decide

theorem met_SleepTargetHasNoDrift : (reading (t1 0)).phase = .ready ∧
    ({ reading (t2 7) with sleepUs := 5 } : State).phase = .ready ∧ (reading (t1 0)).ts.ok = true ∧
    (reading (t2 7)).ts.ok = true ∧ (reading (t1 0)).ts.subsecUs.toNat ≤ 999999 ∧
    (reading (t2 7)).ts.subsecUs = (reading (t1 0)).ts.subsecUs := by decide

theorem met_BeginTakesAccess : (shared 1 2 false .sleeping).phase = .sleeping ∧
    (shared 1 2 false .sleeping).waitBroken = false ∧
    ({ shared 1 2 false .sleeping with waitBroken := true } : State).waitBroken = true := by decide

/-- Both clauses of CommitReplacesShared, where they meet: the years 63 and 64. -/
theorem met_CommitReplacesShared : (shared 1 2 true .updating).phase = .updating ∧
    InDomain { t1 0 with yy := 63 } ∧ ¬ InDomain { t1 0 with yy := 64 } := by decide

theorem met_UpdaterEnabledByPhase : (shared 0 0 false .ready).phase = .ready ∧
    (shared 0 0 false .sleeping).phase = .sleeping ∧ (shared 0 0 true .updating).phase = .updating := by decide

theorem met_UpdaterIgnoresRenderer : enablingPhase .updCommit = some .updating ∧
    (∃ t, exec .updCommit { shared 1 2 true .updating with ts := t1 21 } = .next t) ∧ InDomain (t1 21) :=
  ⟨rfl, ⟨_, rfl⟩, by decide⟩

/-- A cycle with one request inside the update and two after it, UPD.COMMIT and UPD.ARM reading different records, and a
stimulus laid out beyond it. -/
def oneTick : List Slot :=
  tick ⟨t1 21, false⟩ [⟨t1 21, false⟩] ⟨t1 21, false⟩ [⟨t1 21, false⟩, ⟨t1 21, true⟩]
    ⟨{ t2 21 with subsecUs := 999999 }, false⟩

theorem met_TickCompletesCycle :
    ({ shared 4410 9 false .sleeping with script := oneTick ++ [⟨.event .sampleReq, ⟨t1 21, false⟩⟩] } : State).script =
      oneTick ++ [⟨.event .sampleReq, ⟨t1 21, false⟩⟩] ∧
    (shared 4410 9 false .sleeping).phase = .sleeping ∧ InDomain (t1 21) ∧ (t2 21).ok = true ∧
    ({ t2 21 with subsecUs := 999999 } : Timestamp).subsecUs.toNat ≤ 999999 ∧ 2 < 2 ^ 32 := by decide

/-- R85, R151, R156: one request during the update is the placeholder, two of the new second lie below its pivot of 8820. -/
theorem test_tick_interleaved :
    observe 6 { shared 4410 9 false .sleeping with script := oneTick } = [0x3F800000, 0x00000000, 0x00000000] := by decide

/-- A fault taken by each operation that can take one. -/
theorem met_FaultEntry :
    ∀ p ∈ [(Instr.encEval 3, reading (t5 3)), (.updArm, reading { t1 0 with ok := false }),
        (.updBegin, { shared 1 2 false .sleeping with waitBroken := true }),
        (.updCommit, { shared 1 2 true .updating with ts := t5 3 }), (.rndSample, shared 0 4294967295 false .ready)],
      ∃ t f, exec p.1 p.2 = .next t ∧ t.result = some (.raised f) := by
  simp only [List.forall_mem_cons, List.not_mem_nil, false_implies, implies_true, and_true]
  exact ⟨⟨_, _, rfl, rfl⟩, ⟨_, _, rfl, rfl⟩, ⟨_, _, rfl, rfl⟩, ⟨_, _, rfl, rfl⟩, ⟨_, _, rfl, rfl⟩⟩

/-- A later state: a request after the fault. -/
theorem met_FaultEntry_later : ∃ u, Later (laidOut (.event .sampleReq) { shared 1 2 false .halted with fltCode := 3 }) u ∧
    u.out = some 0 ∧ u.fltCode = 3 :=
  ⟨_, .step .now (by decide) rfl, rfl, rfl⟩

/-- Each register changes under the operation that may change it. -/
theorem met_AccessRights :
    summary (exec .updCommit { shared 1 2 true .updating with ts := t1 21 }) = some ⟨8820, 0, false, .ready, 0, none⟩ ∧
    summary (exec .rndSample (shared 9 2 false .ready)) = some ⟨9, 3, false, .ready, 0, some 0⟩ ∧
    (after (exec .updArm (reading (t1 0)))).map (·.sleepUs) = some 1000000 := by decide

theorem met_EitherOrderOfEvents : (shared 4410 9 false .sleeping).fltCode = 0 ∧
    (shared 4410 9 false .sleeping).phase = .sleeping ∧ (shared 4410 9 false .sleeping).updating = false ∧
    (shared 4410 9 false .sleeping).waitBroken = false ∧
    (shared 4410 4294967294 false .sleeping).count.toNat < 2 ^ 32 - 1 ∧
    InDomain ({ shared 4410 9 false .sleeping with ts := t1 21 } : State).ts := by decide

/-- The invariant is met by a state of each phase; both events complete in each. -/
theorem met_EventsFollowTable : BlockInv (shared 4410 9 false .ready) ∧ BlockInv (shared 8820 9 false .sleeping) ∧
    BlockInv (shared 17640 9 true .updating) ∧ BlockInv { shared 0 9 false .halted with fltCode := 5 } ∧
    ¬ BlockInv (shared 4410 9 true .ready) := by
  refine ⟨?_, ?_, ?_, ?_, ?_⟩ <;> decide

theorem met_EventsFollowTable_completes (e : Config.Event) (s : State) : ∃ t, runEvent e s = .next t :=
  Laws.runEvent_completes e s

theorem met_StepKeepsInvariant : BlockInv (laidOut (.event .updater) (shared 0 0 false .ready)) ∧
    ∃ t, step (laidOut (.event .updater) (shared 0 0 false .ready)) = .next t := ⟨by decide, ⟨_, rfl⟩⟩

theorem met_IdealToneZeros : IsIdealTone Config.build 441 (Real.sin (2 * Real.pi * Config.build.fc * 441 / Config.build.fs)) ∧
    441 ≤ 441 := ⟨by norm_num [IsIdealTone], le_refl _⟩

/-- Property 3 of R153 holds of every free tone for the bound 2, and every legal pivot starts a tone. -/
theorem met_ToneResumesNearZero : SinqWithin Config.build 2 ∧ Idle (shared 4410 4410 false .sleeping) ∧
    LegalPivot (shared 4410 4410 false .sleeping).pivot ∧
    (shared 4410 4410 false .sleeping).count = (shared 4410 4410 false .sleeping).pivot ∧ LegalPivot 17640 :=
  ⟨Laws.sinqWithin_two _, by decide, by decide, rfl, by decide⟩

end Sys2Proof.Tests
end

section
/-!
PROOFS. Two statements of 00_scope.md: a step with nothing laid out completes (R12, R60), and the population count is
the number of set positions (R10).
-/

namespace Sys2Proof.Proofs.Scope

open Sys2Proof.Machine Sys2Proof.Laws

/-- No event touches what lies outside the block, a reset included: the ports and the stimuli. -/
theorem runEvent_keeps_outside {e : Config.Event} {s t : State} (h : runEvent e s = .next t) :
    t.ts = s.ts ∧ t.waitBroken = s.waitBroken ∧ t.script = s.script ∧ t.tick = s.tick := by
  rcases runEvent_cases h with ⟨i, hi, -⟩ | ⟨-, -, rfl⟩ | ⟨-, rfl⟩
  · exact exec_keeps_outside hi
  · simp
  · simp

/-- With nothing laid out, a step takes the free stimulus (R12). -/
theorem step_of_script_nil {s : State} (hs : s.script = []) : step s = stepFree s := by simp [step, hs]

/-- A free step completes, draws one stimulus and leaves what is laid out: it runs an event, and events complete (R60). -/
theorem stepFree_completes (s : State) :
    ∃ t, stepFree s = .next t ∧ t.script = s.script ∧ t.tick = s.tick + 1 := by
  obtain ⟨t, ht⟩ := runEvent_completes (Config.environment s.tick).event
    (present (Config.environment s.tick).inputs { s with tick := s.tick + 1 })
  obtain ⟨-, -, hscript, htick⟩ := runEvent_keeps_outside ht
  exact ⟨t, ht, hscript, htick⟩

/-- Settles O7: the free step's event completes, and neither the script nor the count of drawn stimuli is the block's. -/
theorem freeStepCompletes : Obligations.FreeStepCompletes := by
  intro s hs
  obtain ⟨t, ht, hscript, htick⟩ := stepFree_completes s
  exact ⟨t, (step_of_script_nil hs).trans ht, hscript.trans hs, htick⟩

/-- Settles O18: counting below the width counts the positions of the word, both counts being sums over them. -/
theorem popcountCountsOnes : Obligations.PopcountCountsOnes := by
  intro w v
  calc popcount v = ((Finset.range w).filter fun k => v.getLsbD k = true).card := onesBelow_eq_card v w
    _ = (Finset.univ.filter fun k : Fin w => v.getLsbD k = true).card := by
      rw [Finset.card_filter, Finset.card_filter, Finset.sum_range]

end Sys2Proof.Proofs.Scope
end

section
/-!
PROOFS. The statements of 10_state.md: what a laid-out word runs (R22, R30), the reset values (R37), the invariant of the
state (R31), what a recorded fault does (R33), and that the output wires are not read (R21, R27).
-/

namespace Sys2Proof.Proofs.BlockState

open Sys2Proof.Machine Sys2Proof.Safety Sys2Proof.Laws

/-! ## The invariant: one lemma per write of the state -/

/-- Settles O57: the reset state is one literal, and each clause is a fact about its numbers. -/
theorem invariantAtReset : Obligations.InvariantAtReset := by
  unfold Obligations.InvariantAtReset
  decide

/-- Settles O55: the reset state's fields, read off its definition. -/
theorem resetValues : Obligations.ResetValues := ⟨rfl, rfl, rfl, rfl, rfl, rfl⟩

/-- Reset meets the invariant from any state: it leaves the registers of `State.reset`. -/
theorem blockInv_resetBlock (s : State) : BlockInv (resetBlock s) := invariantAtReset

/-- The code 0 stands for no fault: no fault has it (R190). -/
theorem faultCode_ne_zero (f : BlockFault) : faultCode f ≠ 0 := by cases f <;> simp [faultCode]

/-- Every fault but SymbolInvariant, which nothing raises (R194), has one of the codes the block writes (R190). -/
theorem faultCode_written {f : BlockFault} (hf : f ≠ .symbolInvariant) :
    faultCode f = 1 ∨ faultCode f = 2 ∨ faultCode f = 3 ∨ faultCode f = 5 := by
  cases f with
  | symbolInvariant => exact absurd rfl hf
  | _ => simp [faultCode]

/-- Fault entry with a fault already recorded keeps the first one's code (R197). -/
theorem raise_fltCode_of_faulted {s : State} (hf : s.fltCode ≠ 0) (f : BlockFault) :
    (raise f s).fltCode = s.fltCode := if_neg hf

/-- Fault entry with none recorded records the fault's own code (R197). -/
theorem raise_fltCode_of_healthy {s : State} (hf : s.fltCode = 0) (f : BlockFault) :
    (raise f s).fltCode = faultCode f := if_pos hf

section
variable {s : State} (h : BlockInv s)
include h

/-- Outside HALTED no fault is recorded (R31 part 5). -/
theorem fltCode_eq_zero_of_blockInv (hp : s.phase ≠ .halted) : s.fltCode = 0 := by
  obtain ⟨-, -, hcode, -⟩ := h
  exact not_not.mp (mt hcode.mp hp)

/-- Outside the phase UPDATING the flag is clear (R31 part 4). -/
theorem updating_eq_false_of_blockInv (hp : s.phase ≠ .updating) : s.updating = false := by
  obtain ⟨-, hflag, -⟩ := h
  exact Bool.eq_false_iff.mpr (mt hflag.mp hp)

/-! What a step shows on the ports, the wires and the script is no register, so the invariant of the state after is the
invariant of the state before, read through the update. -/

theorem blockInv_present (inp : Config.Inputs) (rest : List Slot) (n : Nat) :
    BlockInv (present inp { s with script := rest, tick := n }) := h

theorem blockInv_silent : BlockInv (silent s) := h

theorem blockInv_returning (r : Result) : BlockInv (returning r s) := h

theorem blockInv_answer (v : Word) : BlockInv (answer v s) := h

/-- The count is in no clause of the invariant. -/
theorem blockInv_countSample : BlockInv (countSample s) := h

/-- Fault entry (R197) goes to HALTED with the flag clear and a code recorded, the old one or the fault's own. -/
theorem blockInv_raise {f : BlockFault} (hf : f ≠ .symbolInvariant) : BlockInv (raise f s) := by
  obtain ⟨hpivot, -, -, hcodes, hsleep⟩ := h
  refine ⟨hpivot, by simp, iff_of_true ?_ rfl, ?_, hsleep⟩ <;> by_cases h0 : s.fltCode = 0
  · rw [raise_fltCode_of_healthy h0]
    exact faultCode_ne_zero f
  · rwa [raise_fltCode_of_faulted h0]
  · rw [raise_fltCode_of_healthy h0]
    exact .inr (faultCode_written hf)
  · rwa [raise_fltCode_of_faulted h0]

/-- Fault entry in a step that answers a request: the sample is no register. -/
theorem blockInv_raiseAnswering {f : BlockFault} (hf : f ≠ .symbolInvariant) (v : Word) :
    BlockInv (raiseAnswering f v s) := blockInv_raise h hf

/-- UPD.ARM's writes in READY (R172), for a target within a second. -/
theorem blockInv_armUpdater {us : BitVec 20} (hp : s.phase = .ready) (hus : us.toNat ≤ 1000000) :
    BlockInv (armUpdater us s) := by
  have hcode := fltCode_eq_zero_of_blockInv h (by simp [hp])
  have hflag := updating_eq_false_of_blockInv h (by simp [hp])
  obtain ⟨hpivot, -⟩ := h
  exact ⟨hpivot, by simp [hflag], by simp [hcode], by simp [hcode], hus⟩

/-- UPD.BEGIN's writes in SLEEPING (R174): the flag is set with the phase. -/
theorem blockInv_beginUpdate (hp : s.phase = .sleeping) : BlockInv (beginUpdate s) := by
  have hcode := fltCode_eq_zero_of_blockInv h (by simp [hp])
  obtain ⟨hpivot, -, -, -, hsleep⟩ := h
  exact ⟨hpivot, by simp, by simp [hcode], by simp [hcode], hsleep⟩

/-- UPD.COMMIT's writes in UPDATING (R176), for a legal pivot: the flag is cleared with the phase. -/
theorem blockInv_commitPivot {v : Word} (hp : s.phase = .updating) (hv : LegalPivot v) :
    BlockInv (commitPivot v s) := by
  have hcode := fltCode_eq_zero_of_blockInv h (by simp [hp])
  obtain ⟨-, -, -, -, hsleep⟩ := h
  exact ⟨hv, by simp, by simp [hcode], by simp [hcode], hsleep⟩

/-- RND.SAMPLE keeps the invariant on each of its paths; the one fault it raises is CountOverflow (R196). -/
theorem blockInv_sample : BlockInv (sample Config.build s) := by
  rcases sample_build_cases s with ⟨-, heq⟩ | ⟨-, -, heq⟩ | ⟨-, -, -, heq⟩ | ⟨-, -, -, heq⟩ <;> rw [heq]
  · exact blockInv_answer h _
  · exact blockInv_answer h _
  · exact blockInv_raiseAnswering h (by simp) _
  · exact blockInv_answer (blockInv_countSample h) _

/-- Every operation that completes keeps the invariant. -/
theorem exec_keeps_blockInv {i : Instr} {t : State} (he : exec i s = .next t) : BlockInv t := by
  rcases exec_cases he with ⟨r, -, rfl, -⟩ | ⟨-, rfl⟩ | ⟨f, hf, rfl, -⟩ | ⟨-, hp, -, hus, rfl⟩ | ⟨-, hp, -, rfl⟩ |
    ⟨-, hp, -, rfl⟩
  · exact blockInv_returning h r
  · exact blockInv_sample h
  · exact blockInv_raise h (by rintro rfl; simp [faultCode] at hf)
  · exact blockInv_armUpdater h hp (by rw [sleepTarget_toNat hus]; omega)
  · exact blockInv_beginUpdate h hp
  · exact blockInv_commitPivot h hp (pivotWord_build_legal _)

/-- Every cause of a step keeps the invariant: an operation, a halted updater's idle step, or a reset. -/
theorem runCause_keeps_blockInv {c : Cause} {t : State} (hc : runCause c s = .next t) : BlockInv t := by
  rcases runCause_cases hc with ⟨i, hi⟩ | ⟨-, rfl⟩ | ⟨-, rfl⟩
  · exact exec_keeps_blockInv h hi
  · exact blockInv_silent h
  · exact blockInv_resetBlock s

end

/-- Settles O58: a step runs its cause on a state with the same registers, and every cause keeps the invariant. -/
theorem stepKeepsInvariant : Obligations.StepKeepsInvariant := by
  intro s t h hstep
  obtain ⟨inp, rest, n, heq⟩ := step_eq_runCause s
  exact runCause_keeps_blockInv (blockInv_present h inp rest n) (heq ▸ hstep)

/-! ## A recorded fault -/

/-- With a fault recorded, an operation that completes keeps the code and sounds nothing but 0.0 (R152, R197). The phase
need not be HALTED: the updater's writes leave the code alone too. -/
theorem exec_of_faulted {i : Instr} {s t : State} (hf : s.fltCode ≠ 0) (h : exec i s = .next t) :
    t.fltCode = s.fltCode ∧ ∀ v, t.out = some v → v = 0 := by
  rcases exec_cases h with ⟨r, -, rfl, -⟩ | ⟨-, rfl⟩ | ⟨f, -, rfl, -⟩ | ⟨-, -, -, -, rfl⟩ | ⟨-, -, -, rfl⟩ | ⟨-, -, -, rfl⟩
  case inr.inr.inl => exact ⟨raise_fltCode_of_faulted hf f, by simp⟩
  case inr.inl =>
    rcases sample_build_cases s with ⟨-, heq⟩ | ⟨h0, -⟩ | ⟨h0, -⟩ | ⟨h0, -⟩
    · rw [heq]
      exact ⟨rfl, fun v hv => (Option.some.inj hv).symm⟩
    all_goals exact absurd h0 hf
  all_goals simp

/-- Settles O42: a step that is no reset runs an operation, or leaves a halted block silent. -/
theorem mutedUntilReset : Obligations.MutedUntilReset := by
  intro s t hf hcause hstep
  obtain ⟨inp, rest, n, heq⟩ := step_eq_runCause s
  rw [heq] at hstep
  rcases runCause_cases hstep with ⟨i, hi⟩ | ⟨-, rfl⟩ | ⟨hreset, -⟩
  · exact exec_of_faulted (s := present inp { s with script := rest, tick := n }) hf hi
  · simp
  · exact absurd hreset hcause

/-! ## What a laid-out word runs -/

/-- A step with a word laid out first takes it off the script, shows its inputs, and runs what it decodes to. -/
theorem step_of_laidOutWord {s : State} {w : OpWord} {inp : Config.Inputs} {rest : List Slot} {i : Instr}
    (hscript : s.script = ⟨.op w, inp⟩ :: rest) (hdecode : decode w = .ok i) :
    step s = exec i (present inp { s with script := rest }) := by
  simp only [step, hscript, stepLaidOut, runCause, runWord, hdecode]

/-- Settles O5: presenting the inputs writes the two ports and nothing else. -/
theorem stepRunsDecodedWord : Obligations.StepRunsDecodedWord :=
  fun _ _ _ _ _ hscript hdecode => step_of_laidOutWord hscript hdecode

/-- A table row that reads `i` has an operation word that decodes to `i`. -/
theorem tableWord_of_decodeTableWord {nbits w : Nat} {i : Instr} (h : decodeTableWord nbits w = some i) :
    ∃ o, tableWord nbits w = some o ∧ decode o = .ok i := by
  unfold decodeTableWord at h
  split at h
  · simp at h
  · rename_i o ho
    split at h
    · rename_i j hj
      exact ⟨o, ho, hj.trans (congrArg _ (Option.some.inj h))⟩
    · simp at h

/-- Placing a word that decodes lays it out as the one coming stimulus, in the phase its operation needs. -/
theorem placeWord_of_decode {o : OpWord} {i : Instr} (h : decode o = .ok i) (s : State) :
    placeWord o s = { placedPhase i s with script := [⟨.op o, ⟨placedRecord o s.ts, false⟩⟩] } := by
  simp only [placeWord, h]

/-- An operation that a phase enables is placed in it, with the flag that goes with it (R30). -/
theorem placedPhase_of_enabled {i : Instr} {ph : Phase} (h : enablingPhase i = some ph) (s : State) :
    placedPhase i s = { s with phase := ph, updating := decide (ph = .updating) } := by
  simp only [placedPhase, h]

/-- An operation of ENC, PWM or RND is placed in whatever phase stands. -/
theorem placedPhase_of_free {i : Instr} (h : enablingPhase i = none) (s : State) : placedPhase i s = s := by
  simp only [placedPhase, h]

/-- The step after placing a word that decodes to `i` runs `i`, on the placed state with its record on the port. -/
theorem step_placeWord {o : OpWord} {i : Instr} (h : decode o = .ok i) (s : State) :
    step (placeWord o s) =
      exec i { placedPhase i s with script := [], ts := placedRecord o s.ts, waitBroken := false } := by
  rw [placeWord_of_decode h]
  refine step_of_laidOutWord (inp := ⟨placedRecord o s.ts, false⟩) (rest := []) ?_ h
  rfl

/-- Settles O8: the row's word decodes, so the placed step runs it; placing changes the phase and its flag for the
updater's operations and no register for the others. -/
theorem placedWordRuns : Obligations.PlacedWordRuns := by
  intro s nbits w i h
  obtain ⟨o, ho, hdecode⟩ := tableWord_of_decodeTableWord h
  have hplace : s.withFetchWord nbits w = placeWord o s := by simp only [State.withFetchWord, ho]
  refine ⟨_, hplace ▸ step_placeWord hdecode s, ?_⟩
  cases hi : enablingPhase i with
  | some ph => simp [placedPhase_of_enabled hi]
  | none => simp [placedPhase_of_free hi]

/-! ## The output wires -/

/-- Settles O52, operation by operation: each decides by registers and ports alone, and each state it ends in has both
wires written afresh. -/
theorem outputWiresUnread : Obligations.OutputWiresUnread := by
  intro i s o r
  cases i <;> rfl

end Sys2Proof.Proofs.BlockState
end

section
/-!
PROOFS. The statement of 20_memory.md: the sample requests that fall inside an update (R58, R151, R177).
-/

namespace Sys2Proof.Proofs.Memory

open Sys2Proof.Machine Sys2Proof.Safety Sys2Proof.Laws Sys2Proof.Proofs.BlockState

/-- One request and then `k` more: RND.SAMPLE always completes, so its sample comes first and the rest start from the
state it leaves (R60). -/
theorem render_succ (k : Nat) (s : State) :
    render (k + 1) s =
      ((sample Config.build s).out.toList ++ (render k (sample Config.build s)).1,
        (render k (sample Config.build s)).2) := rfl

/-- With no fault recorded and the flag set, RND.SAMPLE is on its UPDATING path (R151). -/
theorem sample_of_updating {s : State} (hf : s.fltCode = 0) (hu : s.updating = true) :
    sample Config.build s = answer 0x3F800000 s := by
  rcases sample_build_cases s with ⟨h, -⟩ | ⟨-, -, heq⟩ | ⟨-, h, -⟩ | ⟨-, h, -⟩
  · exact absurd hf h
  · exact heq
  all_goals simp [hu] at h

/-- Requests during an update get placeholders and write the output wires alone: a placeholder leaves the code and the
flag, by which the next request is again on the UPDATING path. -/
theorem render_of_updating (k : Nat) {s : State} (hf : s.fltCode = 0) (hu : s.updating = true) :
    ∃ o r, render k s = (List.replicate k 0x3F800000, { s with out := o, result := r }) := by
  induction k generalizing s with
  | zero => exact ⟨s.out, s.result, rfl⟩
  | succ k ih =>
    obtain ⟨o, r, ih⟩ := ih (s := answer 0x3F800000 s) hf hu
    refine ⟨o, r, ?_⟩
    rw [render_succ, sample_of_updating hf hu, ih]
    rfl

/-- Settles O40: the requests write the output wires alone, and no operation reads those (O52). -/
theorem placeholdersChangeNothing : Obligations.PlaceholdersChangeNothing := by
  intro s k hf _ hu
  obtain ⟨o, r, h⟩ := render_of_updating k hf hu
  rw [h]
  exact ⟨rfl, rfl, outputWiresUnread .updCommit s o r⟩

end Sys2Proof.Proofs.Memory
end

section
/-!
PROOFS. The statements of 30_encoding.md: the encoder and the decoder (R70 to R81), format by format, and the trace of
one updater cycle (R85).
-/

namespace Sys2Proof.Proofs.Encoding

open Sys2Proof.Machine Sys2Proof.Safety Sys2Proof.Laws Sys2Proof.Laws.State

/-! ## A flag bit in front of an operand (R72, R79) -/

/-- A word is its top bit in front of the rest. -/
theorem exists_flag_append {n : Nat} (c : BitVec (1 + n)) : ∃ (b : Bool) (x : BitVec n), c = BitVec.ofBool b ++ x := by
  refine ⟨c.getLsbD n, c.setWidth n, BitVec.eq_of_getLsbD_eq fun k hk => ?_⟩
  rw [BitVec.getLsbD_append, BitVec.getLsbD_setWidth]
  by_cases hlt : k < n
  · simp [hlt]
  · obtain rfl : k = n := by omega
    simp

/-- The flag of a word is the bit above its operand. -/
theorem getLsbD_flag_append {n : Nat} (b : Bool) (x : BitVec n) : (BitVec.ofBool b ++ x).getLsbD n = b := by
  rw [BitVec.getLsbD_append]
  simp

/-- The number of a flagged word: the flag weighs the operand's range. -/
theorem toNat_flag_append {n : Nat} (b : Bool) (x : BitVec n) :
    (BitVec.ofBool b ++ x).toNat = b.toNat * 2 ^ n + x.toNat := by
  rw [BitVec.toNat_append, ← Nat.shiftLeft_add_eq_or_of_lt x.isLt, Nat.shiftLeft_eq, BitVec.toNat_ofBool]

/-! ## What the decoder answers, format by format -/

/-- F-SYM with `blank` clear is the symbol of its two low bits (R72). -/
theorem decodeSym_symbol (v : BitVec 2) : decodeSym (BitVec.ofBool false ++ v) = .ok (.pw (.sym v)) := by
  simp only [decodeSym, getLsbD_flag_append, BitVec.setWidth_append_eq_right, Bool.false_eq_true, if_false]

/-- F-SYM with `blank` set is the blank, where no other bit is set (R72). -/
theorem decodeSym_blank (v : BitVec 2) : decodeSym (BitVec.ofBool true ++ v) =
    if v = 0 then .ok (.pw .blank) else .error .unproducedSymbol := by
  simp only [decodeSym, getLsbD_flag_append, BitVec.setWidth_append_eq_right, if_true]

/-- F-PW with `valid` set is the pulse width of its nine low bits, where it is one of the table's (R79). -/
theorem decodePw_valid (m : BitVec 9) : decodePw (BitVec.ofBool true ++ m) =
    if (OptPw.ms m).wf then .ok (.pivot (.ms m)) else .error .noPulseWidth := by
  simp only [decodePw, getLsbD_flag_append, BitVec.setWidth_append_eq_right, if_true]

/-- F-PW with `valid` clear is the absent pulse width, where no other bit is set (R79). -/
theorem decodePw_absent (m : BitVec 9) : decodePw (BitVec.ofBool false ++ m) =
    if m = 0 then .ok (.pivot .absent) else .error .danglingMilliseconds := by
  simp only [decodePw, getLsbD_flag_append, BitVec.setWidth_append_eq_right, Bool.false_eq_true, if_false]

/-- The pulse widths of the table as numbers (R79, R140). -/
theorem ms_wf_iff (m : BitVec 9) :
    (OptPw.ms m).wf = true ↔ m.toNat = 100 ∨ m.toNat = 200 ∨ m.toNat = 300 ∨ m.toNat = 400 := by
  simp [OptPw.wf, ← BitVec.toNat_inj, or_assoc]

/-- A code of `n` bits, widened to the ten of an operation word, still fits in them. -/
theorem toNat_widened_lt {n : Nat} (hn : n ≤ 10) (x : BitVec n) : (x.setWidth 10).toNat < 2 ^ n := by
  rw [BitVec.toNat_setWidth_of_le hn]
  exact x.isLt

/-- A word of as many bits as its format has goes to the format's own decoder (R70). -/
theorem decode_frag {c : BitVec 10} (hc : c.toNat < 32) : decode ⟨.frag, c⟩ = decodeFrag c.toNat := if_pos hc

theorem decode_eval (f : BitVec 5) : decode ⟨.eval, f.setWidth 10⟩ = decodeEval f :=
  (if_pos (toNat_widened_lt (n := 5) (by decide) f)).trans (congrArg decodeEval (by simp))

theorem decode_sym (c : BitVec 3) : decode ⟨.sym, c.setWidth 10⟩ = decodeSym c :=
  (if_pos (toNat_widened_lt (n := 3) (by decide) c)).trans (congrArg decodeSym (by simp))

theorem decode_pw (c : BitVec 10) : decode ⟨.pw, c⟩ = decodePw c := if_pos c.isLt

theorem decode_step (c : BitVec 2) : decode ⟨.step, c.setWidth 10⟩ = .ok (decodeStep c) :=
  (if_pos (toNat_widened_lt (n := 2) (by decide) c)).trans
    (congrArg (Except.ok ∘ decodeStep) (by simp))

/-- A code wider than its format is rejected (log entry 6). -/
theorem decode_of_tooWide {w : OpWord} (h : ¬ w.code.toNat < 2 ^ w.fmt.width) : decode w = .error .codeTooWide :=
  if_neg h

/-! ## From an operation to its word and back -/

/-- A well-formed fragment index comes back from its word (R73). -/
theorem decode_encode_encEval {f : BitVec 5} (h : (Instr.encEval f).wf = true) :
    decode (encode (.encEval f)) = .ok (.encEval f) :=
  (decode_eval f).trans (if_pos (of_decide_eq_true h))

/-- Every optional symbol comes back from its word (R72). -/
theorem decode_encode_pw (y : OptSym) : decode (encode (.pw y)) = .ok (.pw y) := by
  cases y with
  | blank => rfl
  | sym v => exact (decode_sym _).trans (decodeSym_symbol v)

/-- A well-formed pulse width comes back from its word (R79). -/
theorem decode_encode_pivot {w : OptPw} (h : (Instr.pivot w).wf = true) :
    decode (encode (.pivot w)) = .ok (.pivot w) := by
  cases w with
  | absent => rfl
  | ms m => exact (decode_pw _).trans ((decodePw_valid m).trans (if_pos h))

/-- Settles O1: three formats carry an operand, which their words keep whole; every other word is a constant. -/
theorem decodeOfEncode : Obligations.DecodeOfEncode := by
  intro i h
  cases i with
  | encEval f => exact decode_encode_encEval h
  | pw y => exact decode_encode_pw y
  | pivot w => exact decode_encode_pivot h
  | _ => rfl

/-- Settles O4: each written word is the encoder's word of the operation it stands for, and comes back by O1. -/
theorem writtenWordsDecode : Obligations.WrittenWordsDecode :=
  ⟨decodeOfEncode .encChk1 rfl, decodeOfEncode .encChk2 rfl, decodeOfEncode (.encEval 19) rfl,
    decodeOfEncode (.pw .blank) rfl, decodeOfEncode (.pw (.sym 2)) rfl, decodeOfEncode (.pivot (.ms 300)) rfl,
    decodeOfEncode .rndSample rfl, decodeOfEncode .updCommit rfl⟩

/-! ## From a word to its operation and back -/

/-- The words no format produces, by their numbers (R72, R73, R79, R81). -/
def Unproduced (w : OpWord) : Prop :=
  match w.fmt with
  | .frag => 20 ≤ w.code.toNat
  | .eval => 20 ≤ w.code.toNat
  | .sym => 5 ≤ w.code.toNat
  | .pw => ¬ (w.code.toNat = 0 ∨ w.code.toNat = 512 + 100 ∨ w.code.toNat = 512 + 200 ∨
      w.code.toNat = 512 + 300 ∨ w.code.toNat = 512 + 400)
  | .step => 4 ≤ w.code.toNat

/-- What the decoder makes of a word: the well-formed operation whose word it is, or an error, which it is exactly on
the words no format produces. -/
def ReadOrRejected (w : OpWord) : Prop :=
  (¬ Unproduced w ∧ ∃ i, decode w = .ok i ∧ i.wf = true ∧ encode i = w) ∨ (Unproduced w ∧ ∃ e, decode w = .error e)

/-- A code that fits in `n` bits is one of `n` bits, widened. -/
theorem exists_setWidth_of_lt {c : BitVec 10} {n : Nat} (h : c.toNat < 2 ^ n) : ∃ x : BitVec n, c = x.setWidth 10 :=
  ⟨c.setWidth n, BitVec.eq_of_toNat_eq (by
    rw [BitVec.toNat_setWidth, BitVec.toNat_setWidth, Nat.mod_eq_of_lt h, Nat.mod_eq_of_lt c.isLt])⟩

/-- Each of the twenty fragment codes is the word of its operation (R76). -/
theorem decodeFrag_of_lt {k : Nat} (hk : k < 20) :
    ∃ i, decodeFrag k = .ok i ∧ i.wf = true ∧ encode i = ⟨.frag, BitVec.ofNat 10 k⟩ := by
  interval_cases k <;> exact ⟨_, rfl, rfl, rfl⟩

/-- The fragment codes from 20 on are unreachable (R73). -/
theorem decodeFrag_of_ge {k : Nat} (hk : 20 ≤ k) : decodeFrag k = .error .unreachableFragment := by
  obtain ⟨j, rfl⟩ := Nat.exists_eq_add_of_le' hk
  rfl

theorem readOrRejected_frag {c : BitVec 10} (hc : c.toNat < 32) : ReadOrRejected ⟨.frag, c⟩ := by
  rw [ReadOrRejected, decode_frag hc]
  rcases Nat.lt_or_ge c.toNat 20 with hk | hk
  · exact .inl ⟨Nat.not_le.mpr hk, by simpa using decodeFrag_of_lt hk⟩
  · exact .inr ⟨hk, _, decodeFrag_of_ge hk⟩

theorem readOrRejected_eval (f : BitVec 5) : ReadOrRejected ⟨.eval, f.setWidth 10⟩ := by
  have hn : (f.setWidth 10).toNat = f.toNat := BitVec.toNat_setWidth_of_le (by decide)
  have hu : Unproduced ⟨.eval, f.setWidth 10⟩ ↔ 20 ≤ f.toNat := by rw [← hn]; rfl
  rw [ReadOrRejected, decode_eval, hu]
  rcases Nat.lt_or_ge f.toNat 20 with hk | hk
  · exact .inl ⟨Nat.not_le.mpr hk, .encEval f, if_pos hk, decide_eq_true hk, rfl⟩
  · exact .inr ⟨hk, _, if_neg (Nat.not_lt.mpr hk)⟩

theorem readOrRejected_sym (c : BitVec 3) : ReadOrRejected ⟨.sym, c.setWidth 10⟩ := by
  have hn : (c.setWidth 10).toNat = c.toNat := BitVec.toNat_setWidth_of_le (by decide)
  have hu : Unproduced ⟨.sym, c.setWidth 10⟩ ↔ 5 ≤ c.toNat := by rw [← hn]; rfl
  rw [ReadOrRejected, decode_sym, hu]
  obtain ⟨b, v, rfl⟩ := exists_flag_append (n := 2) c
  rw [toNat_flag_append]
  have hv := v.isLt
  cases b with
  | false => exact .inl ⟨by simp; omega, _, decodeSym_symbol v, rfl, rfl⟩
  | true =>
    rw [decodeSym_blank]
    by_cases h0 : v = 0
    · subst h0
      exact .inl ⟨by decide, _, rfl, rfl, rfl⟩
    · have : v.toNat ≠ 0 := fun h => h0 (BitVec.eq_of_toNat_eq h)
      exact .inr ⟨by simp; omega, _, if_neg h0⟩

theorem readOrRejected_pw (c : BitVec 10) : ReadOrRejected ⟨.pw, c⟩ := by
  rw [ReadOrRejected, decode_pw]
  obtain ⟨b, m, rfl⟩ := exists_flag_append (n := 9) c
  have hm := m.isLt
  simp only [Unproduced, toNat_flag_append]
  cases b with
  | false =>
    rw [decodePw_absent]
    by_cases h0 : m = 0
    · subst h0
      exact .inl ⟨by simp, _, rfl, rfl, rfl⟩
    · have : m.toNat ≠ 0 := fun h => h0 (BitVec.eq_of_toNat_eq h)
      exact .inr ⟨by simp; omega, _, if_neg h0⟩
  | true =>
    rw [decodePw_valid]
    by_cases hw : (OptPw.ms m).wf = true
    · have := (ms_wf_iff m).mp hw
      exact .inl ⟨by simp; omega, _, if_pos hw, hw, rfl⟩
    · have := mt (ms_wf_iff m).mpr hw
      exact .inr ⟨by simp; omega, _, if_neg hw⟩

theorem readOrRejected_step (c : BitVec 2) : ReadOrRejected ⟨.step, c.setWidth 10⟩ := by
  have hn : (c.setWidth 10).toNat = c.toNat := BitVec.toNat_setWidth_of_le (by decide)
  have hword : (decodeStep c).wf = true ∧ encode (decodeStep c) = ⟨.step, c.setWidth 10⟩ := by
    revert c; decide
  refine .inl ⟨?_, _, decode_step c, hword⟩
  show ¬ 4 ≤ (c.setWidth 10).toNat
  omega

/-- A code wider than its format is one the format never produces. -/
theorem unproduced_of_tooWide {w : OpWord} (h : ¬ w.code.toNat < 2 ^ w.fmt.width) : Unproduced w := by
  obtain ⟨fmt, c⟩ := w
  cases fmt <;> simp only [Fmt.width, Unproduced] at h ⊢ <;> omega

/-- Every word of every format is read as the operation whose word it is, or rejected as one that is not produced. -/
theorem readOrRejected (w : OpWord) : ReadOrRejected w := by
  obtain ⟨fmt, c⟩ := w
  by_cases hfit : c.toNat < 2 ^ fmt.width
  · obtain ⟨x, rfl : c = x.setWidth 10⟩ := exists_setWidth_of_lt hfit
    cases fmt with
    | frag => exact readOrRejected_frag hfit
    | eval => exact readOrRejected_eval x
    | sym => exact readOrRejected_sym x
    | pw => exact readOrRejected_pw _
    | step => exact readOrRejected_step x
  · exact .inr ⟨unproduced_of_tooWide hfit, _, decode_of_tooWide hfit⟩

/-- Settles O2: a word that decodes is not rejected, and what it decodes to is the operation whose word it is. -/
theorem encodeOfDecode : Obligations.EncodeOfDecode := by
  intro w i h
  rcases readOrRejected w with ⟨-, j, hj, hwf, henc⟩ | ⟨-, e, he⟩
  · obtain rfl : j = i := Except.ok.inj (hj.symm.trans h)
    exact ⟨hwf, henc⟩
  · simp [he] at h

/-- The decoder rejects exactly the words no format produces (log entries 6, 21). -/
theorem decode_error_iff_unproduced (w : OpWord) : (∃ e, decode w = .error e) ↔ Unproduced w := by
  rcases readOrRejected w with ⟨hu, j, hj, -⟩ | ⟨hu, he⟩
  · exact iff_of_false (by simp [hj]) hu
  · exact iff_of_true he hu

/-- Settles O3: the statement lists the words no format produces. -/
theorem wordsRejected : Obligations.WordsRejected := by
  intro w
  rw [decode_error_iff_unproduced]
  obtain ⟨fmt, c⟩ := w
  cases fmt <;> rfl

/-! ## One cycle of the updater as a trace (R85) -/

/-- `k` steps from `s` complete in `t` and sound the samples `ws`. -/
def RunsTo (s : State) (k : Nat) (ws : List Word) (t : State) : Prop :=
  core.run k s = .next t ∧ observe k s = ws

/-- Two runs one after another sound the samples of both. -/
theorem RunsTo.append {s t u : State} {j k : Nat} {vs ws : List Word} (h₁ : RunsTo s j vs t) (h₂ : RunsTo t k ws u) :
    RunsTo s (j + k) (vs ++ ws) u := by
  obtain ⟨hrun, hobs⟩ := run_add j k h₁.1
  exact ⟨hrun.trans h₂.1, by rw [hobs, h₁.2, h₂.2]⟩

/-- A line of a trace whose operation puts out no sample (R85). -/
theorem silentLine_runsTo {s t : State} {i : Instr} {inp : Config.Inputs} {rest : List Slot}
    (hs : s.script = traceLine i inp :: rest) (hi : i.wf = true)
    (hexec : exec i (present inp { s with script := rest }) = .next t) (hout : t.out = none) : RunsTo s 1 [] t := by
  obtain ⟨hrun, hobs⟩ := run_succ (k := 0) ((step_traceLine (decodeOfEncode i hi) hs).trans hexec)
  exact ⟨hrun, by simpa [observe, hout] using hobs⟩

/-- UPD.BEGIN after a wait that expired (R174). -/
theorem exec_updBegin_of_expired {s : State} (hp : s.phase = .sleeping) (hw : s.waitBroken = false) :
    exec .updBegin s = .next (beginUpdate s) := by
  rw [exec_updBegin hp, beginStep, hw, if_neg Bool.false_ne_true]

/-- UPD.COMMIT stores ENCPIVOT's number (R85, R176). -/
theorem exec_updCommit_of_encPivot {s : State} {n : Nat} (hp : s.phase = .updating)
    (hn : encPivot Config.build s.ts = .ok n) :
    exec .updCommit s = .next (commitPivot (BitVec.ofNat 32 n) s) := by
  rw [exec_updCommit hp, commit]
  cases h : evalRecord Config.build s.ts with
  | ok y =>
    obtain rfl : pivotOf Config.build (pulseOf Config.build y) = n := by
      simpa [encPivot, encPw, h, Except.map] using hn
    rfl
  | error f => simp [encPivot, encPw, h, Except.map] at hn

/-- UPD.ARM with a reading whose part of the second is in range stores the rest of the second (R172). -/
theorem exec_updArm_of_inRange {s : State} (hp : s.phase = .ready) (hok : s.ts.ok = true)
    (hus : s.ts.subsecUs.toNat ≤ 999999) :
    exec .updArm s = .next (armUpdater (BitVec.ofNat 20 (1000000 - s.ts.subsecUs.toNat)) s) := by
  have htarget : sleepTarget s.ts.subsecUs = BitVec.ofNat 20 (1000000 - s.ts.subsecUs.toNat) := by
    refine BitVec.eq_of_toNat_eq ?_
    rw [sleepTarget_toNat hus, BitVec.toNat_ofNat, Nat.mod_eq_of_lt (by omega)]
  rw [exec_updArm hp, arm_of_inRange hok hus, htarget]

section
variable {s : State} {inp : Config.Inputs} {inps : List Config.Inputs} {rest : List Slot}

/-- The first part of a cycle: UPD.BEGIN, and the requests of the update, which are not counted. -/
theorem update_runsTo (hs : s.script = traceLine .updBegin inp :: (inps.map (traceLine .rndSample) ++ rest))
    (hp : s.phase = .sleeping) (hw : inp.waitBroken = false) :
    ∃ t, RunsTo s (1 + inps.length) (samplesOf (beginUpdate s) inps.length) t ∧
      Counted (beginUpdate s) t s.count rest := by
  have hbegin := silentLine_runsTo hs rfl (exec_updBegin_of_expired hp hw) rfl
  have hidle : ¬ Idle (beginUpdate s) := fun hi => Bool.noConfusion hi.2
  obtain ⟨t, hrun, hcounted, hobs⟩ := run_requests inps rest
    (beginUpdate (present inp { s with script := inps.map (traceLine .rndSample) ++ rest })) rfl
    (fun hi => absurd hi hidle)
  exact ⟨t, hbegin.append ⟨hrun, hobs⟩, (if_neg hidle : ite _ _ _ = s.count) ▸ hcounted⟩

/-- The second part of a cycle: UPD.COMMIT, and the requests after it, which are counted from 0 where no fault is
recorded. -/
theorem second_runsTo {n : Nat} (hs : s.script = traceLine .updCommit inp :: (inps.map (traceLine .rndSample) ++ rest))
    (hp : s.phase = .updating) (hn : encPivot Config.build inp.ts = .ok n) (hlen : inps.length < 2 ^ 32) :
    ∃ t, RunsTo s (1 + inps.length) (samplesOf (commitPivot (BitVec.ofNat 32 n) s) inps.length) t ∧
      Counted (commitPivot (BitVec.ofNat 32 n) s) t (if s.fltCode = 0 then BitVec.ofNat 32 inps.length else 0) rest := by
  have hcommit := silentLine_runsTo hs rfl (exec_updCommit_of_encPivot hp hn) rfl
  obtain ⟨t, hrun, hcounted, hobs⟩ := run_requests inps rest
    (commitPivot (BitVec.ofNat 32 n) (present inp { s with script := inps.map (traceLine .rndSample) ++ rest })) rfl
    (fun _ => (Nat.zero_add _).symm ▸ hlen)
  refine ⟨t, hcommit.append ⟨hrun, hobs⟩, ?_⟩
  simpa [Idle, Counted] using hcounted

end

/-- Every pivot of the build is within the second's 400 ms (R142). -/
theorem pivotOf_build_le (y : OptSym) : pivotOf Config.build (pulseOf Config.build y) ≤ 17640 := by
  cases y with
  | blank => decide
  | sym v => revert v; decide

/-- ENCPIVOT on a record of the domain is a number that the pivot's register holds. -/
theorem exists_encPivot_of_inDomain {ts : Timestamp} (h : InDomain ts) :
    ∃ n ≤ 17640, encPivot Config.build ts = .ok n :=
  ⟨_, pivotOf_build_le _, encPivot_build_of_inDomain h⟩

/-- The envelope against a pivot that the register holds: 0.0 below it, the tone from it on (R156). -/
theorem envelope_ofNat {p : Config.Params} {n : Nat} (hn : n < 2 ^ 32) (k : Nat) :
    envelope p (BitVec.ofNat 32 n) k = if k < n then 0x00000000 else sinq p k := by
  rw [envelope, BitVec.toNat_ofNat, Nat.mod_eq_of_lt hn]
  rcases Nat.lt_or_ge k n with hlt | hle
  · rw [if_neg (Nat.not_le.mpr hlt), if_pos hlt]
    rfl
  · rw [if_pos hle, if_neg (Nat.not_lt.mpr hle)]

/-- The samples of the requests of an update: placeholders (R151), or silence after a fault (R152). -/
theorem samplesOf_beginUpdate (s : State) (k : Nat) : samplesOf (beginUpdate s) k =
    if s.fltCode = 0 then List.replicate k 0x3F800000 else List.replicate k 0x00000000 := by
  simp [samplesOf]

/-- The samples of the requests after a commit: the start of the envelope (R156), or silence after a fault (R152). -/
theorem samplesOf_commitPivot (s : State) {n : Nat} (hn : n < 2 ^ 32) (k : Nat) :
    samplesOf (commitPivot (BitVec.ofNat 32 n) s) k =
      if s.fltCode = 0 then (List.range k).map fun j => if j < n then 0x00000000 else sinq Config.build j
      else List.replicate k 0x00000000 := by
  simp [samplesOf, envelope_ofNat hn]

/-- The five parts of a cycle, in the two runs and the last line. -/
theorem length_tick (wake commit arm : Config.Inputs) (update second : List Config.Inputs) :
    (tick wake update commit second arm).length = 1 + update.length + (1 + second.length + 1) := by
  simp [tick]
  omega

/-- Settles O49: the trace is UPD.BEGIN with its requests, UPD.COMMIT with its requests, and UPD.ARM. Requests change no
register but the count, and the commit sets that to 0, so the registers after each part are those of `s` but for its own
writes. -/
theorem tickCompletesCycle : Obligations.TickCompletesCycle := by
  intro s wake commit arm update second rest hs hphase hwake hdomain hok hus hlen
  obtain ⟨n, hn, hpivot⟩ := exists_encPivot_of_inDomain hdomain
  refine ⟨n, hpivot, ?_⟩
  simp only [tick, List.cons_append, List.append_assoc, List.nil_append] at hs
  obtain ⟨t, hupdate, -, -, -, htphase, -, htflt, httick, htscript⟩ := update_runsTo hs hphase hwake
  obtain ⟨u, hsecond, hupivot, hucount, huupd, huphase, -, huflt, hutick, huscript⟩ :=
    second_runsTo htscript htphase hpivot hlen
  have harm := silentLine_runsTo huscript rfl (exec_updArm_of_inRange huphase hok hus) rfl
  obtain ⟨hrun, hobs⟩ := hupdate.append (hsecond.append harm)
  rw [length_tick, hrun, hobs]
  refine ⟨?_, ?_⟩
  · rw [List.append_nil, samplesOf_beginUpdate, samplesOf_commitPivot t (by omega), htflt, beginUpdate_fltCode]
    split
    · rfl
    · exact List.replicate_append_replicate
  · simp [armUpdater, silent, present, hupivot, hucount, huupd, huflt, hutick, htflt, httick]

end Sys2Proof.Proofs.Encoding
end

section
/-!
PROOFS. The statements of 40_encoder.md about the symbols: the twenty rows (R103 to R122), ENC.EVAL's dispatch to them
(R100, R126, R127), the two parities (R124), and that a receiver recovers the fields of a super-frame (R125, R75).
-/

namespace Sys2Proof.Proofs.Encoder

open Sys2Proof.Machine Sys2Proof.Safety Sys2Proof.Laws

/-! ## What an operation returns -/

/-- A step whose meaning is `returnSymbol` returns that symbol and changes nothing else (R126). -/
theorem returns_of_exec {i : Instr} {s : State} {y : OptSym} (h : exec i s = returnSymbol y s) :
    Returns i s (.symbol y) := h

/-- An operation returns one value. -/
theorem returns_unique {i : Instr} {s : State} {a b : Result} (ha : Returns i s a) (hb : Returns i s b) : a = b := by
  have h : (some a : Option Result) = some b := congrArg State.result (Host.Outcome.next.inj (ha.symm.trans hb))
  exact Option.some.inj h

/-- A row returns the symbol of the number its two bits spell. -/
theorem returnsSym_of_toNat {i : Instr} {s : State} {v : BitVec 2} {n : Nat} (h : exec i s = returnSymbol (.sym v) s)
    (hv : v.toNat = n) : ReturnsSym i s n := by
  have hn : BitVec.ofNat 2 n = v := by rw [← hv, BitVec.ofNat_toNat, BitVec.setWidth_eq]
  rw [ReturnsSym, hn]
  exact h

/-! ## The windows (R74) -/

/-- A row whose symbol is a top window returns the shifted field, mod 4 (R74). -/
theorem returnsSym_topWindow {i : Instr} {s : State} {w : Nat} {f : BitVec w} {j n : Nat}
    (h : exec i s = returnSymbol (.sym (topWindow f j)) s) (hn : f.toNat / 2 ^ j % 4 = n) : ReturnsSym i s n :=
  returnsSym_of_toNat h ((topWindow_toNat f j).trans hn)

/-- A row whose symbol is an inner window returns the shifted field mod 4 (R74). -/
theorem returnsSym_innerWindow {i : Instr} {s : State} {w : Nat} {f : BitVec w} {j n : Nat} (hw : 2 ≤ w)
    (h : exec i s = returnSymbol (.sym (innerWindow f j)) s) (hn : f.toNat / 2 ^ j % 4 = n) : ReturnsSym i s n :=
  returnsSym_of_toNat h ((innerWindow_toNat hw f j).trans hn)

/-- A field of at most four bits is its two windows put together (R75). -/
theorem twoWindows_toNat {w : Nat} (hw : 2 ≤ w) (hw4 : w ≤ 4) (f : BitVec w) :
    4 * (topWindow f 2).toNat + (innerWindow f 0).toNat = f.toNat := by
  have hf : f.toNat < 2 ^ 4 := f.isLt.trans_le (Nat.pow_le_pow_right (by decide) hw4)
  rw [topWindow_toNat, innerWindow_toNat hw]
  omega

/-- A field of at most six bits is its three windows put together (R75). -/
theorem threeWindows_toNat {w : Nat} (hw : 2 ≤ w) (hw6 : w ≤ 6) (f : BitVec w) :
    16 * (topWindow f 4).toNat + 4 * (innerWindow f 2).toNat + (innerWindow f 0).toNat = f.toNat := by
  have hf : f.toNat < 2 ^ 6 := f.isLt.trans_le (Nat.pow_le_pow_right (by decide) hw6)
  rw [topWindow_toNat, innerWindow_toNat hw, innerWindow_toNat hw]
  omega

/-- The year's seventh bit (R122). -/
theorem yearTopBit_toNat (yy : BitVec 7) : (yy.getLsbD 6).toNat = yy.toNat / 64 := by
  have hyy := yy.isLt
  rw [BitVec.getLsbD, Nat.toNat_testBit]
  omega

/-- The flag of a check row is its high bit, whatever the check bit is (R113, R122). -/
theorem flag_of_pair (a : Bool) (b : BitVec 1) : (BitVec.ofBool a ++ b).toNat / 2 = a.toNat := by
  have hb := b.isLt
  rw [pair_toNat]
  omega

/-- The year is its seventh bit, over any check bit, and the three masked windows put together (R75). -/
theorem yearWindows_toNat (yy : BitVec 7) (b : BitVec 1) :
    64 * ((BitVec.ofBool (yy.getLsbD 6) ++ b).toNat / 2) + 16 * (innerWindow yy 4).toNat +
      4 * (innerWindow yy 2).toNat + (innerWindow yy 0).toNat = yy.toNat := by
  have hyy := yy.isLt
  rw [flag_of_pair, yearTopBit_toNat, innerWindow_toNat (by decide), innerWindow_toNat (by decide),
    innerWindow_toNat (by decide)]
  omega

/-! ## The rows that are windows of a field (R105 to R121) -/

/-- Settles O11: the row is a constant. -/
theorem reservedRowZero : Obligations.ReservedRowZero := fun _ => returnsSym_of_toNat rfl rfl

/-- Settles O12: a four-bit field. -/
theorem hourWindows : Obligations.HourWindows := by
  intro s
  have hlt := s.ts.hour12.isLt
  exact ⟨returnsSym_topWindow rfl (by omega), by omega, returnsSym_innerWindow (by decide) rfl (by omega)⟩

/-- Settles O13: a six-bit field. -/
theorem minuteWindows : Obligations.MinuteWindows := by
  intro s
  have hlt := s.ts.minute.isLt
  exact ⟨returnsSym_topWindow rfl (by omega), by omega, returnsSym_innerWindow (by decide) rfl (by omega),
    returnsSym_innerWindow (by decide) rfl (by omega)⟩

/-- Settles O14: a three-bit field, so that the high window is a single bit. -/
theorem weekdayWindows : Obligations.WeekdayWindows := by
  intro s
  have hlt := s.ts.weekday.isLt
  exact ⟨returnsSym_topWindow rfl (by omega), by omega, returnsSym_innerWindow (by decide) rfl (by omega)⟩

/-- Settles O15: a five-bit field, so that the high window is a single bit. -/
theorem dayWindows : Obligations.DayWindows := by
  intro s
  have hlt := s.ts.day.isLt
  exact ⟨returnsSym_topWindow rfl (by omega), by omega, returnsSym_innerWindow (by decide) rfl (by omega),
    returnsSym_innerWindow (by decide) rfl (by omega)⟩

/-- Settles O16: a four-bit field. -/
theorem monthWindows : Obligations.MonthWindows := by
  intro s
  have hlt := s.ts.month.isLt
  exact ⟨returnsSym_topWindow rfl (by omega), by omega, returnsSym_innerWindow (by decide) rfl (by omega)⟩

/-- Settles O17: all three windows of the seven-bit year are masked, so no bound on it is needed. -/
theorem yearWindows : Obligations.YearWindows := fun _ =>
  ⟨returnsSym_innerWindow (by decide) rfl (by omega), returnsSym_innerWindow (by decide) rfl (by omega),
    returnsSym_innerWindow (by decide) rfl (by omega)⟩

/-! ## ENC.EVAL: the checks and the row of a fragment (R100, R101) -/

/-- ENC.EVAL finds no fault exactly where the clock answers, the fields are in range, and the year is one the policy of
the build lets through (R100, R101, R193). -/
theorem recordFault_eq_none_iff {p : Config.Params} (hp : p.slots = 60) (ts : Timestamp) :
    recordFault p ts = none ↔ ts.ok = true ∧ FieldsInRange ts ∧ (p.yearPolicy = .fault → ts.yy.toNat ≤ p.yyMax) := by
  rw [← firstBadField_eq_none_iff hp, recordFault]
  cases ts.ok with
  | false => simp
  | true =>
    cases firstBadField p ts with
    | some f => simp
    | none => cases p.yearPolicy <;> simp

/-- ENC.EVAL on a record its checks let through, by the number of the fragment. -/
theorem evalRecord_of_recordFault {p : Config.Params} (hp : p.fragLen = 20) {ts : Timestamp}
    (h : recordFault p ts = none) {k : Fin Config.fragRows} (hk : ts.second.toNat % 20 = k.val) :
    evalRecord p ts = .ok (encAt p k ts) := by
  have hfrag : frag p ts = k := Fin.ext ((frag_val hp ts).trans hk)
  rw [evalRecord, h, hfrag]

/-- The replaced second, where the port carries it (R85). -/
theorem atSecond_second_toNat (ts : Timestamp) {n : Nat} (hn : n ≤ 63) : (atSecond ts n).second.toNat = n := by
  rw [atSecond, Nat.min_eq_left hn]
  exact Nat.mod_eq_of_lt (by omega)

/-- Within the minute the second decides no check (R101). -/
theorem recordFault_atSecond {p : Config.Params} (hp : p.slots = 60) {ts : Timestamp} {n : Nat}
    (h : recordFault p ts = none) (hn : n ≤ 59) : recordFault p (atSecond ts n) = none := by
  rw [recordFault_eq_none_iff hp] at h ⊢
  obtain ⟨hok, ⟨hmonth, hday, hweekday, hhour, hminute, -⟩, hyear⟩ := h
  have hsecond : (atSecond ts n).second.toNat ≤ 59 := by rwa [atSecond_second_toNat ts (by omega)]
  exact ⟨hok, ⟨hmonth, hday, hweekday, hhour, hminute, hsecond⟩, hyear⟩

/-- ENC.EVAL at another second of the minute (R85). -/
theorem evalRecord_atSecond {p : Config.Params} (hslots : p.slots = 60) (hlen : p.fragLen = 20) {ts : Timestamp}
    (h : recordFault p ts = none) {n : Nat} (hn : n ≤ 59) {k : Fin Config.fragRows} (hk : n % 20 = k.val) :
    evalRecord p (atSecond ts n) = .ok (encAt p k (atSecond ts n)) :=
  evalRecord_of_recordFault hlen (recordFault_atSecond hslots h hn) (by rwa [atSecond_second_toNat ts (by omega)])

/-- Every row but ENC.MARK's is a symbol with a value. -/
theorem exists_sym_of_ne_zero (p : Config.Params) {k : Fin Config.fragRows} (hk : k ≠ 0) (ts : Timestamp) :
    ∃ v, encAt p k ts = .sym v := by
  fin_cases k
  · exact absurd rfl hk
  all_goals exact ⟨_, rfl⟩

/-- Every row but ENC.SFID's and ENC.CHK1's is the same at every second (R127). -/
theorem encAt_atSecond (p : Config.Params) {k : Fin Config.fragRows} (hsfid : k ≠ 1) (hchk : k ≠ 10) (ts : Timestamp)
    (n : Nat) : encAt p k (atSecond ts n) = encAt p k ts := by
  fin_cases k
  on_goal 11 => exact absurd rfl hchk
  on_goal 2 => exact absurd rfl hsfid
  all_goals rfl

/-- In the domain ENC.EVAL returns the symbol of the record's row and changes nothing else (R100, R126). -/
theorem returns_encEval_of_inDomain {s : State} (h : InDomain s.ts) (f : BitVec 5) :
    Returns (.encEval f) s (.symbol (encAt Config.build (frag Config.build s.ts) s.ts)) :=
  returns_of_exec (exec_encEval_of_inDomain h f)

/-- Only the row of fragment 0 is blank. -/
theorem encAt_eq_blank_iff (p : Config.Params) (k : Fin Config.fragRows) (ts : Timestamp) :
    encAt p k ts = .blank ↔ k = 0 := by
  constructor
  · intro h
    by_contra hk
    obtain ⟨v, hv⟩ := exists_sym_of_ne_zero p hk ts
    rw [hv] at h
    cases h
  · rintro rfl
    rfl

/-- Settles O9: ENC.MARK is blank on every record, and among the rows of ENC.EVAL it alone is, which the seconds 0, 20 and
40 of a minute select. -/
theorem frameMarkerBlank : Obligations.FrameMarkerBlank := by
  intro s
  refine ⟨returns_of_exec rfl, fun hd f => ?_⟩
  have hret := returns_encEval_of_inDomain hd f
  have hblank : Returns (.encEval f) s (.symbol .blank) ↔ frag Config.build s.ts = 0 := by
    rw [← encAt_eq_blank_iff Config.build _ s.ts]
    exact ⟨fun h => Result.symbol.inj (returns_unique hret h), fun h => h ▸ hret⟩
  obtain ⟨-, ⟨-, -, -, -, -, hsecond⟩, -⟩ := hd
  rw [hblank, Fin.ext_iff, frag_build_val, ← BitVec.toNat_inj, ← BitVec.toNat_inj, ← BitVec.toNat_inj]
  change s.ts.second.toNat % 20 = 0 ↔ s.ts.second.toNat = 0 ∨ s.ts.second.toNat = 20 ∨ s.ts.second.toNat = 40
  omega

/-- The operation of a fragment code is the row of that fragment (R76). -/
theorem exec_of_decodeFrag {k : Fin Config.fragRows} {i : Instr} (h : decodeFrag k.val = .ok i) (s : State) :
    exec i s = returnSymbol (encAt Config.build k s.ts) s := by
  fin_cases k <;> cases h <;> rfl

/-- Settles O22: in the domain ENC.EVAL returns the row of the second's fragment, which the operation of that fragment's
code returns too. -/
theorem evalDispatchesOnSecond : Obligations.EvalDispatchesOnSecond := by
  intro s f i hd hdec
  refine ⟨?_, _, returns_encEval_of_inDomain hd f⟩
  have hcode : (BitVec.ofNat 10 (s.ts.second.toNat % 20)).toNat = (frag Config.build s.ts).val := by
    rw [frag_build_val, BitVec.toNat_ofNat]
    omega
  rw [Encoding.decode_frag (by rw [hcode]; exact (frag Config.build s.ts).isLt.trans (by decide)), hcode] at hdec
  rw [exec_encEval_of_inDomain hd, exec_of_decodeFrag hdec]

/-- Settles O29: neither the checks nor a row read the part of the second. -/
theorem evalIsPure : Obligations.EvalIsPure := by
  intro s u f g hd hts
  have hdu : InDomain u.ts := by rw [hts]; exact hd
  refine ⟨_, returns_encEval_of_inDomain hd f, ?_⟩
  have hsame : encAt Config.build (frag Config.build u.ts) u.ts = encAt Config.build (frag Config.build s.ts) s.ts := by
    rw [hts]
    rfl
  exact hsame ▸ returns_encEval_of_inDomain hdu g

/-- Settles O30: the three seconds have one fragment, whose row does not read the second. -/
theorem superFramesRepeat : Obligations.SuperFramesRepeat := by
  intro ts k hd hk hsfid hchk
  have hrow (n : Nat) (hn : n ≤ 59) (hmod : n % 20 = k) :
      evalRecord Config.build (atSecond ts n) = .ok (encAt Config.build ⟨k, hk⟩ ts) := by
    rw [← encAt_atSecond Config.build (k := ⟨k, hk⟩) (Fin.ne_of_val_ne hsfid) (Fin.ne_of_val_ne hchk) ts n]
    exact evalRecord_atSecond build_slots build_fragLen ((recordFault_build_eq_none_iff ts).mpr hd) hn hmod
  exact ⟨_, hrow k (by omega) (by omega), hrow (k + 20) (by omega) (by omega), hrow (k + 40) (by omega) (by omega)⟩

/-! ## The rows that read the absolute second (R77, R78) -/

/-- The second-range-code of the seconds 1 to 20 (R77). -/
theorem srcCode_of_first (p : Config.Params) {second : BitVec 6} (h : 1 ≤ second.toNat ∧ second.toNat ≤ 20) :
    srcCode p second = p.srcA := if_pos h

/-- The second-range-code of the seconds 21 to 40 (R77). -/
theorem srcCode_of_middle (p : Config.Params) {second : BitVec 6} (h : 21 ≤ second.toNat ∧ second.toNat ≤ 40) :
    srcCode p second = p.srcB := by
  have hfirst : ¬ (1 ≤ second ∧ second ≤ 20) := fun hle => absurd (Nat.le_trans h.1 hle.2) (by decide)
  exact (if_neg hfirst).trans (if_pos h)

/-- The second-range-code of the seconds 41 to 59 (R77). -/
theorem srcCode_of_last (p : Config.Params) {second : BitVec 6} (h : 41 ≤ second.toNat ∧ second.toNat ≤ 59) :
    srcCode p second = p.srcC := by
  have hfirst : ¬ (1 ≤ second ∧ second ≤ 20) := fun hle => absurd (Nat.le_trans h.1 hle.2) (by decide)
  have hmiddle : ¬ (21 ≤ second ∧ second ≤ 40) := fun hle => absurd (Nat.le_trans h.1 hle.2) (by decide)
  exact (if_neg hfirst).trans ((if_neg hmiddle).trans (if_pos h))

/-- The super-frame id is never 3, the free values included (R78). -/
theorem superFrameId_toNat_lt (second : BitVec 6) : (superFrameId second).toNat < 3 := by
  have hfree := (Config.freeSfid second).isLt
  unfold superFrameId
  split_ifs
  · decide
  · decide
  · decide
  · rw [BitVec.toNat_ofNat]
    omega

/-- ENC.SFID returns the super-frame id (R104). -/
theorem returnsSym_encSfid (s : State) : ReturnsSym .encSfid s (superFrameId s.ts.second).toNat :=
  returnsSym_of_toNat rfl rfl

/-- Settles O10: the id is 0, 1, 2 at its three seconds, and below 3 at every other. -/
theorem superFrameIdRow : Obligations.SuperFrameIdRow := by
  intro s
  have hret := returnsSym_encSfid s
  refine ⟨fun h => ?_, fun h => ?_, fun h => ?_, fun h => ?_⟩
  · rwa [h] at hret
  · rwa [h] at hret
  · rwa [h] at hret
  · have heq := OptSym.sym.inj (Result.symbol.inj (returns_unique hret h))
    have hlt := superFrameId_toNat_lt s.ts.second
    rw [BitVec.ofNat_toNat, BitVec.setWidth_eq] at heq
    rw [heq] at hlt
    exact absurd hlt (by decide)

/-- ENC.CHK1 returns the pm flag over the parity bit (R113). -/
theorem returnsSym_encChk1 (s : State) :
    ReturnsSym .encChk1 s (2 * s.ts.pm.toNat + (p10 Config.build s.ts).toNat) :=
  returnsSym_of_toNat rfl (pair_toNat _ _)

/-- `P10` as a number (R113). -/
theorem p10_toNat (p : Config.Params) (ts : Timestamp) : (p10 p ts).toNat =
    (popcount (srcCode p ts.second) + popcount ts.hour12 + popcount ts.minute + popcount ts.weekday) % 2 := by
  rw [p10, parity_toNat]
  simp only [List.sum_cons, List.sum_nil, Nat.add_zero, Nat.add_assoc]

/-- `P19` as a number (R122). -/
theorem p19_toNat (ts : Timestamp) : (p19 ts).toNat =
    (popcount ts.day + popcount ts.month + popcount (ts.yy &&& 0b111111#7)) % 2 := by
  rw [p19, parity_toNat]
  simp only [List.sum_cons, List.sum_nil, Nat.add_zero, Nat.add_assoc]

/-- Settles O19: in each range of seconds the second-range-code is the build's. -/
theorem checkRowOne : Obligations.CheckRowOne := by
  intro s c hc
  have hsrc : srcCode Config.build s.ts.second = c := by
    rcases hc with ⟨hlo, hhi, rfl⟩ | ⟨hlo, hhi, rfl⟩ | ⟨hlo, hhi, rfl⟩
    · rw [srcCode_of_first _ ⟨hlo, hhi⟩, build_srcA]
    · rw [srcCode_of_middle _ ⟨hlo, hhi⟩, build_srcB]
    · rw [srcCode_of_last _ ⟨hlo, hhi⟩, build_srcC]
  have hret := returnsSym_encChk1 s
  rwa [p10_toNat, hsrc] at hret

/-- Settles O20: the id and the check bit are in their ranges whatever the free values are. -/
theorem openSecondsComplete : Obligations.OpenSecondsComplete := fun s =>
  ⟨⟨_, superFrameId_toNat_lt s.ts.second, returnsSym_encSfid s⟩, _, (p10 Config.build s.ts).isLt, returnsSym_encChk1 s⟩

/-- The mask of the year's low six bits leaves their count (R122). -/
theorem popcount_lowSix (yy : BitVec 7) : popcount (yy &&& 0b111111#7) = popcount (BitVec.ofNat 6 yy.toNat) := by
  revert yy
  decide

/-- Settles O21: the flag is the year's seventh bit, and the parity's mask keeps the low six. -/
theorem checkRowTwo : Obligations.CheckRowTwo := by
  intro s
  refine returnsSym_of_toNat rfl ?_
  rw [pair_toNat, yearTopBit_toNat, p19_toNat, popcount_lowSix]

/-! ## Parity over exclusive-or (R124) -/

/-- Two counts of ones and that of the exclusive-or agree mod 2, since two ones at one position cancel. -/
theorem onesBelow_xor_mod_two {w : Nat} (a b : BitVec w) (n : Nat) :
    onesBelow (a ^^^ b) n % 2 = (onesBelow a n + onesBelow b n) % 2 := by
  induction n with
  | zero => rfl
  | succ n ih =>
    have hbit : ((a ^^^ b).getLsbD n).toNat % 2 = ((a.getLsbD n).toNat + (b.getLsbD n).toNat) % 2 := by
      rw [BitVec.getLsbD_xor]
      cases a.getLsbD n <;> cases b.getLsbD n <;> rfl
    simp only [onesBelow]
    omega

/-- The parity of an exclusive-or is that of the two counts together (R124). -/
theorem popcount_xor_mod_two {w : Nat} (a b : BitVec w) : popcount (a ^^^ b) % 2 = (popcount a + popcount b) % 2 :=
  onesBelow_xor_mod_two a b w

/-- Below the new width, widening a word keeps its ones. -/
theorem onesBelow_setWidth {w n : Nat} (v : BitVec w) {k : Nat} (hk : k ≤ n) :
    onesBelow (v.setWidth n) k = onesBelow v k := by
  induction k with
  | zero => rfl
  | succ k ih =>
    have hlt : k < n := hk
    rw [onesBelow, onesBelow, ih hlt.le, BitVec.getLsbD_setWidth, decide_eq_true hlt, Bool.true_and]

/-- A word has no ones above its width. -/
theorem onesBelow_of_width_le {w n : Nat} (v : BitVec w) (hn : w ≤ n) : onesBelow v n = popcount v := by
  induction n, hn using Nat.le_induction with
  | base => rfl
  | succ n hn ih => rw [onesBelow, ih, BitVec.getLsbD_of_ge v n hn, Bool.toNat_false, Nat.add_zero]

/-- Widening a word keeps its population count. -/
theorem popcount_setWidth {w n : Nat} (hn : w ≤ n) (v : BitVec w) : popcount (v.setWidth n) = popcount v := by
  rw [popcount, onesBelow_setWidth v le_rfl, onesBelow_of_width_le v hn]

/-- Settles O27: widened to six bits the operands keep their counts, and the parity of the exclusive-or is that of their
sum. -/
theorem parityIsXorParity : Obligations.ParityIsXorParity := by
  intro c h m d
  have hc : popcount (c.setWidth 6) = popcount c := popcount_setWidth (by decide) c
  have hh : popcount (h.setWidth 6) = popcount h := popcount_setWidth (by decide) h
  have hd : popcount (d.setWidth 6) = popcount d := popcount_setWidth (by decide) d
  have h1 := popcount_xor_mod_two (c.setWidth 6) (h.setWidth 6)
  have h2 := popcount_xor_mod_two (c.setWidth 6 ^^^ h.setWidth 6) m
  have h3 := popcount_xor_mod_two (c.setWidth 6 ^^^ h.setWidth 6 ^^^ m) (d.setWidth 6)
  rw [parity_toNat]
  simp only [List.sum_cons, List.sum_nil]
  omega

/-- A word with one bit set has the population count 1. -/
theorem popcount_twoPow {w k : Nat} (hk : k < w) : popcount (BitVec.twoPow w k) = 1 := by
  have hone (i : Nat) : (BitVec.twoPow w k).getLsbD i = true ↔ i = k := by
    rw [BitVec.getLsbD_twoPow]
    simp only [Bool.and_eq_true, decide_eq_true_eq]
    exact ⟨fun h => h.2.symm, fun h => ⟨hk, h.symm⟩⟩
  rw [popcount, onesBelow_eq_card]
  simp only [hone]
  rw [Finset.filter_eq', if_pos (Finset.mem_range.mpr hk), Finset.card_singleton]

/-- Flipping one bit changes the population count by an odd number (R124). -/
theorem popcount_flip {w k : Nat} (hk : k < w) (v : BitVec w) :
    popcount (v ^^^ BitVec.twoPow w k) % 2 = (popcount v + 1) % 2 := by
  rw [popcount_xor_mod_two, popcount_twoPow hk]

/-- A parity bit flips when the population count of one operand changes by an odd number (R124). -/
theorem parity_ne_of_flip {before after : List Nat} {a b : Nat} (h : a % 2 = (b + 1) % 2) :
    parity (before ++ a :: after) ≠ parity (before ++ b :: after) := by
  rw [Ne, ← BitVec.toNat_inj, parity_toNat, parity_toNat]
  simp only [List.sum_append, List.sum_cons]
  omega

/-- A mask of an exclusive-or masks both words. -/
theorem xor_and_mask {w : Nat} (a b m : BitVec w) : (a ^^^ b) &&& m = (a &&& m) ^^^ (b &&& m) := by
  refine BitVec.eq_of_getLsbD_eq fun i _ => ?_
  simp only [BitVec.getLsbD_and, BitVec.getLsbD_xor, Bool.and_xor_distrib_right]

/-- Flipping one of the year's low six bits flips that bit of the masked year. -/
theorem lowSix_flip (yy : BitVec 7) {k : Nat} (hk : k < 6) :
    (yy ^^^ BitVec.twoPow 7 k) &&& 0b111111#7 = (yy &&& 0b111111#7) ^^^ BitVec.twoPow 7 k := by
  have hmask : BitVec.twoPow 7 k &&& 0b111111#7 = BitVec.twoPow 7 k := by
    interval_cases k <;> rfl
  rw [xor_and_mask, hmask]

/-- Settles O28: in each clause one operand of the parity has one bit flipped. -/
theorem oneBitFlipsParity : Obligations.OneBitFlipsParity := by
  intro ts
  refine ⟨fun k hk h => ?_, fun k hk h => ?_, fun k hk h => ?_, fun k hk => ?_, fun k hk => ?_, fun k hk => ?_,
    fun k hk => ?_, fun k hk => ?_, fun k hk => ?_⟩
  · rw [p10, p10, srcCode_of_first _ h, srcCode_of_first _ h]
    exact parity_ne_of_flip (before := []) (popcount_flip hk Config.build.srcA)
  · rw [p10, p10, srcCode_of_middle _ h, srcCode_of_middle _ h]
    exact parity_ne_of_flip (before := []) (popcount_flip hk Config.build.srcB)
  · rw [p10, p10, srcCode_of_last _ h, srcCode_of_last _ h]
    exact parity_ne_of_flip (before := []) (popcount_flip hk Config.build.srcC)
  · exact parity_ne_of_flip (before := [_]) (popcount_flip hk ts.hour12)
  · exact parity_ne_of_flip (before := [_, _]) (popcount_flip hk ts.minute)
  · exact parity_ne_of_flip (before := [_, _, _]) (popcount_flip hk ts.weekday)
  · exact parity_ne_of_flip (before := []) (popcount_flip hk ts.day)
  · exact parity_ne_of_flip (before := [_]) (popcount_flip hk ts.month)
  · rw [p19, p19, lowSix_flip ts.yy hk]
    exact parity_ne_of_flip (before := [_, _]) (popcount_flip (hk.trans (by decide)) (ts.yy &&& 0b111111#7))

/-- Settles O31: the three seconds have the codes 0, 1 and 3, of no, one and two ones, and the other operands stay. -/
theorem checkBitAcrossMinute : Obligations.CheckBitAcrossMinute := by
  intro ts
  have h10 : srcCode Config.build (atSecond ts 10).second = 0 :=
    srcCode_of_first _ (show 1 ≤ 10 ∧ 10 ≤ 20 by decide)
  have h30 : srcCode Config.build (atSecond ts 30).second = 1 :=
    srcCode_of_middle _ (show 21 ≤ 30 ∧ 30 ≤ 40 by decide)
  have h50 : srcCode Config.build (atSecond ts 50).second = 3 :=
    srcCode_of_last _ (show 41 ≤ 50 ∧ 50 ≤ 59 by decide)
  constructor
  · rw [p10, p10, h30, h10]
    exact parity_ne_of_flip (before := []) rfl
  · rw [← BitVec.toNat_inj, p10_toNat, p10_toNat, h50, h10]
    show (2 + popcount ts.hour12 + popcount ts.minute + popcount ts.weekday) % 2 =
      (0 + popcount ts.hour12 + popcount ts.minute + popcount ts.weekday) % 2
    omega

/-! ## A receiver recovers the fields (R125, R75) -/

/-- What a receiver holds of fragment `k`: the value of its row at that second of the super-frame. -/
theorem received_of_recordFault {p : Config.Params} (hslots : p.slots = 60) (hlen : p.fragLen = 20) {ts : Timestamp}
    (h : recordFault p ts = none) {k : Nat} (hk : k < 20) :
    received p ts k = symValue (encAt p ⟨k, hk⟩ (atSecond ts (frameStart p ts + k))) := by
  obtain ⟨-, ⟨-, -, -, -, -, hsecond⟩, -⟩ := (recordFault_eq_none_iff hslots ts).mp h
  have hstart : frameStart p ts = ts.second.toNat - ts.second.toNat % 20 := by rw [frameStart, hlen]
  rw [received, evalRecord_atSecond hslots hlen h (k := ⟨k, hk⟩) (by omega) (by show _ = k; omega)]

/-- A receiver recovers the fields of every record the checks let through: each window of a field is a row that does not
read the second, and the flags are the high bits of the two check rows. -/
theorem reassemble_received {p : Config.Params} (hslots : p.slots = 60) (hlen : p.fragLen = 20) {ts : Timestamp}
    (h : recordFault p ts = none) : reassemble (received p ts) = transmitted ts := by
  simp only [reassemble, transmitted, Recovered.mk.injEq, received_of_recordFault hslots hlen h, Nat.reduceLT]
  refine ⟨twoWindows_toNat ?_ ?_ ts.hour12, threeWindows_toNat ?_ ?_ ts.minute, twoWindows_toNat ?_ ?_ ts.weekday,
    threeWindows_toNat ?_ ?_ ts.day, twoWindows_toNat ?_ ?_ ts.month, yearWindows_toNat ts.yy _, flag_of_pair ts.pm _⟩
  all_goals decide

/-- Settles O26: in the domain, and under the truncating policy on every year, no check of ENC.EVAL fails. -/
theorem fieldsRecoveredFromFrame : Obligations.FieldsRecoveredFromFrame := by
  constructor
  · intro ts hd
    exact reassemble_received build_slots build_fragLen ((recordFault_build_eq_none_iff ts).mpr hd)
  · intro ts hok hrange
    exact reassemble_received rfl rfl ((recordFault_eq_none_iff rfl ts).mpr ⟨hok, hrange, nofun⟩)

end Sys2Proof.Proofs.Encoder
end

section
/-!
PROOFS. The statements of 41_pulse_width.md about the envelope mapping: the pulse width of a symbol (R140, R141), the
pivot of a pulse width (R142, R143), and the pulse widths of a fragment (R144).
-/

namespace Sys2Proof.Proofs.PulseWidth

open Sys2Proof.Machine Sys2Proof.Safety Sys2Proof.Laws Sys2Proof.Proofs.Encoder

/-! ## PW and PIVOT (R140 to R143) -/

/-- The table of the default build in closed form (R140). -/
theorem pulseMs_build (v : BitVec 2) : pulseMs Config.build v = BitVec.ofNat 9 (100 * (v.toNat + 1)) := by
  revert v
  decide

/-- The entry as a number: none exceeds the nine bits. -/
theorem pulseMs_build_toNat (v : BitVec 2) : (pulseMs Config.build v).toNat = 100 * (v.toNat + 1) := by
  have hv := v.isLt
  rw [pulseMs_build, BitVec.toNat_ofNat]
  omega

/-- Only a blank has no pulse width (R141). -/
theorem pulseOf_eq_absent_iff (p : Config.Params) (y : OptSym) : pulseOf p y = .absent ↔ y = .blank := by
  cases y <;> simp [pulseOf]

/-- Which symbol has a given pulse width (R141). -/
theorem pulseOf_build_sym_eq_ms_iff (v : BitVec 2) (m : BitVec 9) :
    pulseOf Config.build (.sym v) = .ms m ↔ 100 * (v.toNat + 1) = m.toNat := by
  rw [pulseOf, OptPw.ms.injEq, ← BitVec.toNat_inj, pulseMs_build_toNat]

/-- PW returns the pulse width of its symbol and changes nothing else (R141). -/
theorem returns_pw (y : OptSym) (s : State) : Returns (.pw y) s (.pulse (pulseOf Config.build y)) := rfl

/-- PIVOT returns the pivot of its pulse width and changes nothing else (R142). -/
theorem returns_pivot (w : OptPw) (s : State) : Returns (.pivot w) s (.pivot (pivotWord Config.build w)) := rfl

/-- The pivot of a symbol under any rate: `100 / 1000` cancelled to a tenth of the rate per step of the table (R143). -/
theorem pivotOf_pulseOf_build_sym (p : Config.Params) (v : BitVec 2) :
    pivotOf p (pulseOf Config.build (.sym v)) = (v.toNat + 1) * p.fs / 10 := by
  rw [pulseOf, pivotOf, pulseMs_build_toNat, Nat.mul_assoc]
  exact Nat.mul_div_mul_left _ 10 (by decide : 0 < 100)

/-- Settles O33: the table in closed form. -/
theorem pulseWidthOfSymbol : Obligations.PulseWidthOfSymbol := by
  intro s
  refine ⟨returns_pw .blank s, fun v => ?_⟩
  rw [← pulseMs_build]
  exact returns_pw (.sym v) s

/-- Settles O34: the four widths of the table are evaluated. -/
theorem pivotOfPulseWidth : Obligations.PivotOfPulseWidth :=
  ⟨fun s => ⟨returns_pivot .absent s, fun m => returns_pivot (.ms m) s, returns_pivot (.ms 100) s,
    returns_pivot (.ms 200) s, returns_pivot (.ms 300) s, returns_pivot (.ms 400) s⟩, fun _ _ => ⟨rfl, rfl⟩⟩

/-- Settles O35: a step of the table adds a tenth of the rate before the truncation, which is at least 1 from a rate of 10
on; the default rate is a multiple of 10. -/
theorem pivotMonotone : Obligations.PivotMonotone := by
  constructor
  · intro fs v u hfs hvu
    rw [pivotOf_pulseOf_build_sym, pivotOf_pulseOf_build_sym]
    change (v.toNat + 1) * fs / 10 < (u.toNat + 1) * fs / 10
    have hstep : (v.toNat + 1) * fs + 10 ≤ (u.toNat + 1) * fs :=
      calc (v.toNat + 1) * fs + 10 ≤ (v.toNat + 1) * fs + fs := Nat.add_le_add_left hfs _
        _ = (v.toNat + 1 + 1) * fs := (Nat.succ_mul _ _).symm
        _ ≤ (u.toNat + 1) * fs := Nat.mul_le_mul_right fs (Nat.succ_le_succ hvu)
    omega
  · intro v
    rw [pivotOf_pulseOf_build_sym, build_fs]
    omega

/-! ## The pulse widths of a fragment (R144) -/

/-- The rows that do not reach every symbol: ENC.SFID is never 3, ENC.RSVD always 0, and the high bit of ENC.WDH, of
ENC.DAYH and, for a year of six bits, of ENC.CHK2 is 0 (R104, R105, R111, R114, R122). -/
theorem symbol_le_of_fragment {p : Config.Params} {ts : Timestamp} (hyy : ts.yy.toNat ≤ 63) {k : Fin Config.fragRows}
    {v : BitVec 2} (h : encAt p k ts = .sym v) :
    (k.val = 1 → v.toNat ≤ 2) ∧ (k.val = 2 → v.toNat = 0) ∧
      (k.val = 8 ∨ k.val = 11 ∨ k.val = 19 → v.toNat ≤ 1) := by
  refine ⟨fun hk => ?_, fun hk => ?_, ?_⟩
  · obtain rfl : k = 1 := Fin.ext hk
    cases h
    exact Nat.le_of_lt_succ (superFrameId_toNat_lt ts.second)
  · obtain rfl : k = 2 := Fin.ext hk
    cases h
    rfl
  · rintro (hk | hk | hk)
    · obtain rfl : k = 8 := Fin.ext hk
      cases h
      have hlt := ts.weekday.isLt
      rw [topWindow_toNat]
      omega
    · obtain rfl : k = 11 := Fin.ext hk
      cases h
      have hlt := ts.day.isLt
      rw [topWindow_toNat]
      omega
    · obtain rfl : k = 19 := Fin.ext hk
      cases h
      have hlt := (p19 ts).isLt
      rw [pair_toNat, yearTopBit_toNat]
      omega

/-- ENCPW in the domain (R85): the pulse width of the row's symbol. -/
theorem encPw_build_of_inDomain {ts : Timestamp} (h : InDomain ts) :
    encPw Config.build ts = .ok (pulseOf Config.build (encAt Config.build (frag Config.build ts) ts)) := by
  rw [encPw, evalRecord_build_of_inDomain h]
  rfl

/-- Settles O32: the row of fragment 0 alone is blank, and elsewhere the width is that of a symbol within the row's
bound. -/
theorem pulseWidthsByFragment : Obligations.PulseWidthsByFragment := by
  intro ts hd
  refine ⟨_, encPw_build_of_inDomain hd, ?_⟩
  obtain ⟨-, -, hyy⟩ := hd
  rw [pulseOf_eq_absent_iff, encAt_eq_blank_iff, ← frag_build_val]
  generalize frag Config.build ts = k
  refine ⟨Fin.val_eq_zero_iff, ?_⟩
  by_cases hk : k = 0
  · subst hk
    exact ⟨nofun, nofun, nofun, nofun⟩
  · obtain ⟨v, hv⟩ := exists_sym_of_ne_zero Config.build hk ts
    obtain ⟨hsfid, hrsvd, hhigh⟩ := symbol_le_of_fragment hyy hv
    have hk0 : k.val ≠ 0 := fun h => hk (Fin.ext h)
    have hk20 : k.val < 20 := k.isLt
    simp only [hv, pulseOf_build_sym_eq_ms_iff, BitVec.reduceToNat]
    omega

end Sys2Proof.Proofs.PulseWidth
end

section
/-!
PROOFS. The statements of 42_generator.md: the paths of RND.SAMPLE (R150 to R152), the envelope of a second (R156), and the
zeros of the ideal tone, at which the tone resumes (R153, R154).
-/

namespace Sys2Proof.Proofs.Generator

open Sys2Proof.Machine Sys2Proof.Safety Sys2Proof.Laws
open Sys2Proof.Proofs.Memory Sys2Proof.Proofs.Encoding Sys2Proof.Proofs.PulseWidth

/-! ## The paths of RND.SAMPLE (R150 to R152) -/

/-- Settles O36: RND.SAMPLE always completes, and each of its paths is one branch of the statement. -/
theorem sampleByPath : Obligations.SampleByPath := by
  intro s
  rw [exec_rndSample]
  rcases sample_build_cases s with ⟨hf, heq⟩ | ⟨hf, hu, heq⟩ | ⟨hf, hu, hc, heq⟩ | ⟨hf, hu, hc, heq⟩
  · rw [heq, if_pos hf]
    rfl
  · rw [heq, if_neg (not_not.mpr hf), if_pos hu]
    rfl
  · rw [heq, if_neg (not_not.mpr hf), if_neg (by simp [hu]), if_pos (by simpa using hc)]
    rfl
  · rw [heq, if_neg (not_not.mpr hf), if_neg (by simp [hu]), if_neg (by simpa using hc.ne)]
    rfl

section
variable {p : Config.Params} {s : State} (h : Idle s)
include h

/-- With no fault recorded and the flag clear, RND.SAMPLE is on its IDLE path (R150). -/
theorem sample_of_idle : sample p s = sampleIdle p s := by
  obtain ⟨hf, hu⟩ := h
  simp [sample, mute, hf, hu]

/-- The IDLE path at the count's maximum is the overflow (R196). -/
theorem sample_of_idle_of_full (hc : s.count.toNat = 2 ^ p.cntW - 1) :
    sample p s = raiseAnswering .countOverflow 0x00000000 s :=
  (sample_of_idle h).trans (if_pos hc)

/-- The IDLE path below the count's maximum counts the request and answers it from the envelope (R150). -/
theorem sample_of_idle_of_not_full (hc : s.count.toNat ≠ 2 ^ p.cntW - 1) :
    sample p s = answer (envelope p s.pivot (s.count.toNat + p.kIdx)) (countSample s) :=
  (sample_of_idle h).trans (if_neg hc)

end

/-- The IDLE path of the default build below the count's maximum: the index is the count itself (R150, R8). -/
theorem sample_build_of_idle {s : State} (h : Idle s) (hc : s.count.toNat + 1 < 2 ^ 32) :
    sample Config.build s = answer (envelope Config.build s.pivot s.count.toNat) (countSample s) :=
  sample_of_idle_of_not_full h (by rw [build_cntW]; omega)

/-- Counting a request adds exactly one where the register does not wrap. -/
theorem countSample_count_toNat {s : State} (hc : s.count.toNat + 1 < 2 ^ 32) :
    (countSample s).count.toNat = s.count.toNat + 1 :=
  BitVec.toNat_add_of_lt hc

/-- Settles O41: below its maximum a counter of at most 32 bits has room for one more, in its own width and in the
register's. -/
theorem sampleUnderParameters : Obligations.SampleUnderParameters := by
  intro p s hwf hcount hidle
  obtain ⟨-, -, -, -, -, -, hcntW, -⟩ := hwf
  split
  · exact sample_of_idle_of_full hidle ‹_›
  · have hroom : s.count.toNat + 1 < 2 ^ p.cntW := by omega
    have hregister : s.count.toNat + 1 < 2 ^ 32 := hroom.trans_le (Nat.pow_le_pow_right (by decide) hcntW)
    have hnext := countSample_count_toNat hregister
    rw [sample_of_idle_of_not_full hidle ‹_›]
    exact ⟨hnext, hnext.trans_lt hroom, rfl⟩

/-! ## The envelope of one second (R156) -/

/-- Requests on the IDLE path with room in the counter: request `n` gets the envelope's sample of the index `n` above the
first count, and the requests are counted. -/
theorem render_of_idle (k : Nat) : ∀ {s : State}, Idle s → s.count.toNat + k < 2 ^ 32 →
    (render k s).1 = (List.range k).map (fun n => envelope Config.build s.pivot (s.count.toNat + n)) ∧
    (render k s).2.count.toNat = s.count.toNat + k ∧ (render k s).2.pivot = s.pivot ∧ Idle (render k s).2 := by
  induction k with
  | zero => exact fun hidle _ => ⟨rfl, rfl, rfl, hidle⟩
  | succ k ih =>
    intro s hidle hroom
    have hfirst : s.count.toNat + 1 < 2 ^ 32 := by omega
    have hnext := countSample_count_toNat hfirst
    rw [render_succ, sample_build_of_idle hidle hfirst]
    obtain ⟨hsamples, hcount, hpivot, hidle'⟩ :=
      ih (s := answer (envelope Config.build s.pivot s.count.toNat) (countSample s)) hidle
        (by rw [State.answer_count, hnext]; omega)
    rw [State.answer_count, hnext] at hsamples hcount
    refine ⟨?_, hcount.trans (by omega), hpivot, hidle'⟩
    rw [hsamples, List.range_succ_eq_map]
    simp [Function.comp_def, Nat.add_assoc, Nat.add_comm 1]

/-- The envelope against the pivot register, read from the muted side (R156). -/
theorem envelope_eq_ite_lt (p : Config.Params) (pivot : Word) (n : Nat) :
    envelope p pivot n = if n < pivot.toNat then 0x00000000 else sinq p n := by
  simpa using envelope_ofNat (p := p) pivot.isLt n

/-- Settles O39: the requests of a second start at the index 0. -/
theorem envelopeOfSecond : Obligations.EnvelopeOfSecond := by
  intro s k hidle hcount hk
  have hzero : s.count.toNat = 0 := by rw [hcount]; rfl
  simpa only [hzero, Nat.zero_add, envelope_eq_ite_lt] using render_of_idle k hidle (by omega)

/-! ## The zeros of the ideal tone (R154) -/

/-- The ideal tone of the default build: 137 turns in 441 samples (R153, R154). -/
theorem isIdealTone_build_iff (n : Nat) (x : ℝ) :
    IsIdealTone Config.build n x ↔ x = Real.sin (n / 441 * 137 * (2 * Real.pi)) := by
  have harg : 2 * Real.pi * ((13700 : ℚ) : ℝ) * n / (44100 : ℕ) = n / 441 * 137 * (2 * Real.pi) := by
    push_cast
    ring
  rw [IsIdealTone, build_fc, build_fs, harg]

/-- The phase of index `n` is a multiple of π exactly where 441 divides `2 · 137 · n`, and 441 is coprime to `2 · 137`. -/
theorem sin_phase_eq_zero_iff (n : Nat) : Real.sin (n / 441 * 137 * (2 * Real.pi)) = 0 ↔ 441 ∣ n := by
  rw [Real.sin_eq_zero_iff]
  constructor
  · rintro ⟨k, hk⟩
    have hreal : (k : ℝ) * 441 = 274 * n := by
      refine mul_right_cancel₀ Real.pi_ne_zero ?_
      linear_combination 441 * hk
    have hint : k * 441 = 274 * (n : ℤ) := by exact_mod_cast hreal
    omega
  · rintro ⟨m, rfl⟩
    refine ⟨274 * m, ?_⟩
    push_cast
    ring

/-- The ideal tone is 0 at every multiple of 441. -/
theorem isIdealTone_build_zero {n : Nat} (h : 441 ∣ n) : IsIdealTone Config.build n 0 :=
  (isIdealTone_build_iff n 0).mpr ((sin_phase_eq_zero_iff n).mpr h).symm

/-- The ideal tone repeats after 441 samples, which are 137 whole turns. -/
theorem isIdealTone_build_add_period {n : Nat} {x : ℝ} (h : IsIdealTone Config.build n x) :
    IsIdealTone Config.build (n + 441) x := by
  have hphase : ((n + 441 : ℕ) : ℝ) / 441 * 137 * (2 * Real.pi) =
      n / 441 * 137 * (2 * Real.pi) + (137 : ℕ) * (2 * Real.pi) := by
    push_cast
    ring
  rw [isIdealTone_build_iff] at h ⊢
  rw [hphase, Real.sin_add_nat_mul_two_pi, h]

/-- The ideal tone is odd about its period, as the sine is about 137 whole turns. -/
theorem isIdealTone_build_period_sub {n : Nat} {x : ℝ} (hn : n ≤ 441) (h : IsIdealTone Config.build n x) :
    IsIdealTone Config.build (441 - n) (-x) := by
  have hphase : ((441 - n : ℕ) : ℝ) / 441 * 137 * (2 * Real.pi) =
      (137 : ℕ) * (2 * Real.pi) - n / 441 * 137 * (2 * Real.pi) := by
    rw [Nat.cast_sub hn]
    push_cast
    ring
  rw [isIdealTone_build_iff] at h ⊢
  rw [hphase, Real.sin_nat_mul_two_pi_sub, h]

/-- Every pivot of the build is a number of whole periods: of symbol `v` it is `(v + 1) · 10` of them (R143). -/
theorem period_dvd_pivotOf_build (y : OptSym) : 441 ∣ pivotOf Config.build (pulseOf Config.build y) := by
  cases y with
  | blank => exact dvd_zero 441
  | sym v =>
    obtain ⟨-, hpivot⟩ := pivotMonotone
    rw [hpivot v]
    exact Dvd.dvd.mul_left (by decide) _

/-- Settles O59: the zeros, the period and the symmetry of the sine at 137 turns, and the pivots as whole periods. -/
theorem idealToneZeros : Obligations.IdealToneZeros := by
  refine ⟨fun n x hx => ⟨?_, isIdealTone_build_add_period hx, fun hn => isIdealTone_build_period_sub hn hx⟩,
    fun y => isIdealTone_build_zero (period_dvd_pivotOf_build y)⟩
  rw [(isIdealTone_build_iff n x).mp hx]
  exact sin_phase_eq_zero_iff n

/-! ## Where the tone resumes (R154 part 3) -/

/-- A legal pivot is a number of whole periods, far below the count's maximum (R28). -/
theorem period_dvd_of_legalPivot {v : Word} (h : LegalPivot v) : 441 ∣ v.toNat ∧ v.toNat ≤ 17640 := by
  rcases h with rfl | rfl | rfl | rfl | rfl <;> decide

/-- Settles O60: the first index at the pivot is the pivot, where the ideal tone is 0. -/
theorem toneResumesNearZero : Obligations.ToneResumesNearZero := by
  intro eps s heps hidle hlegal hcount
  obtain ⟨hperiod, hle⟩ := period_dvd_of_legalPivot hlegal
  have hroom : s.count.toNat + 1 < 2 ^ 32 := by rw [hcount]; omega
  have htone : envelope Config.build s.pivot s.count.toNat = sinq Config.build s.pivot.toNat := by
    rw [hcount, envelope, if_pos le_rfl]
  have hnear := heps _ 0 (isIdealTone_build_zero hperiod)
  rw [sub_zero] at hnear
  exact ⟨_, _, (exec_rndSample s).trans (congrArg _ (sample_build_of_idle hidle hroom)), rfl, htone ▸ hnear⟩

end Sys2Proof.Proofs.Generator
end

section
/-!
PROOFS. The statements of 43_updater_handshake.md: the updater's three operations in their phases (R170, R172, R174,
R176), that a sleep target does not drift (R173), that the updater reads nothing of the renderer (R178), and what a
laid-out event runs (R170, R200, R201, R220).
-/

namespace Sys2Proof.Proofs.UpdaterHandshake

open Sys2Proof.Machine Sys2Proof.Safety Sys2Proof.Laws Sys2Proof.Proofs.Encoding

/-! ## Enabling (R170) -/

/-- In its own phase an updater operation completes: it is the one the phase enables. -/
theorem exec_of_enabled {i : Instr} {s : State} (h : enablingPhase i = some s.phase) : ∃ t, exec i s = .next t := by
  refine exec_updaterOp ?_
  generalize s.phase = ph at h ⊢
  cases i <;> cases h <;> rfl

/-- In any other phase the model stops on it by name (log entry 13). -/
theorem exec_of_notEnabled {i : Instr} {ph : Phase} {s : State} (h : enablingPhase i = some ph) (hp : s.phase ≠ ph) :
    exec i s = .fault (.notEnabled i s.phase) := by
  cases i with
  | updArm => cases h; exact if_neg hp
  | updBegin => cases h; exact if_neg hp
  | updCommit => cases h; exact if_neg hp
  | _ => cases h

/-- An updater operation completes in its own phase only. -/
theorem phase_of_exec_next {i : Instr} {ph : Phase} {s t : State} (h : enablingPhase i = some ph)
    (hexec : exec i s = .next t) : s.phase = ph := by
  by_contra hp
  rw [exec_of_notEnabled h hp] at hexec
  cases hexec

/-- The model stops on an updater operation exactly outside its phase. -/
theorem notEnabled_iff {i : Instr} {ph : Phase} (h : enablingPhase i = some ph) (s : State) :
    s.phase ≠ ph ↔ exec i s = .fault (.notEnabled i s.phase) := by
  refine ⟨exec_of_notEnabled h, fun hfault hp => ?_⟩
  obtain ⟨t, ht⟩ := exec_of_enabled (s := s) (h.trans (congrArg some hp.symm))
  rw [hfault] at ht
  cases ht

/-- Settles O47: the three operations are the ones with an enabling phase. -/
theorem updaterEnabledByPhase : Obligations.UpdaterEnabledByPhase := fun s =>
  ⟨notEnabled_iff rfl s, notEnabled_iff rfl s, notEnabled_iff rfl s, fun hp => exec_of_enabled (hp ▸ rfl),
    fun hp => exec_of_enabled (hp ▸ rfl), fun hp => exec_of_enabled (hp ▸ rfl)⟩

/-! ## UPD.ARM (R172, R173) -/

/-- UPD.ARM without a reading takes a ClockFault (R172, R191). -/
theorem arm_of_noReading {s : State} (hok : s.ts.ok = false) : arm s = raise .clockFault s := if_pos hok

/-- UPD.ARM with a reading whose part of the second is out of range takes a FieldOutOfRange (R172). -/
theorem arm_of_outOfRange {s : State} (hok : s.ts.ok = true) (hus : 999999 < s.ts.subsecUs.toNat) :
    arm s = raise (.fieldOutOfRange .subsecUs) s := by
  have hlt : (999999 : BitVec 20) < s.ts.subsecUs := hus
  rw [arm, if_neg (by simp [hok]), if_pos hlt]

/-- Settles O43: the three outcomes of UPD.ARM in READY. -/
theorem armSetsSleepTarget : Obligations.ArmSetsSleepTarget := by
  intro s hp
  split_ifs with hok hus
  · exact (exec_updArm hp).trans (congrArg _ (arm_of_noReading hok))
  · exact (exec_updArm hp).trans (congrArg _ (arm_of_outOfRange (by simpa using hok) hus))
  · exact exec_updArm_of_inRange hp (by simpa using hok) (Nat.not_lt.mp hus)

/-- UPD.ARM with a part of the second in range leaves the target of that part alone (R173). -/
theorem exec_updArm_sleepUs {s : State} (hp : s.phase = .ready) (hok : s.ts.ok = true)
    (hus : s.ts.subsecUs.toNat ≤ 999999) :
    ∃ t, exec .updArm s = .next t ∧ t.sleepUs = sleepTarget s.ts.subsecUs :=
  ⟨_, exec_updArm hp, by rw [arm_of_inRange hok hus, State.armUpdater_sleepUs]⟩

/-- Settles O44: both targets are that of the one part of the second, which it completes to a whole second. -/
theorem sleepTargetHasNoDrift : Obligations.SleepTargetHasNoDrift := by
  intro s u hs hu hsok huok hus hsame
  obtain ⟨t, ht, htarget⟩ := exec_updArm_sleepUs hs hsok hus
  obtain ⟨v, hv, hvtarget⟩ := exec_updArm_sleepUs hu huok (hsame ▸ hus)
  have hnat := sleepTarget_toNat hus
  rw [← htarget] at hnat
  exact ⟨t, v, ht, hv, by rw [htarget, hvtarget, hsame], by omega, by omega⟩

/-! ## UPD.BEGIN (R174) -/

/-- UPD.BEGIN after a wait that expired takes exclusive access (R174). -/
theorem beginStep_of_expired {s : State} (hw : s.waitBroken = false) : beginStep s = beginUpdate s :=
  if_neg (by simp [hw])

/-- UPD.BEGIN after an interrupted wait takes a ClockFault in its place (R174, R191). -/
theorem beginStep_of_interrupted {s : State} (hw : s.waitBroken = true) : beginStep s = raise .clockFault s := if_pos hw

/-- Settles O45: the wait expired or was interrupted. -/
theorem beginTakesAccess : Obligations.BeginTakesAccess := fun _ hp =>
  ⟨fun hw => (exec_updBegin hp).trans (congrArg _ (beginStep_of_expired hw)),
    fun hw => (exec_updBegin hp).trans (congrArg _ (beginStep_of_interrupted hw))⟩

/-! ## UPD.COMMIT (R176) -/

/-- UPD.COMMIT where ENC.EVAL faults takes that fault (R176). -/
theorem commit_of_fault {p : Config.Params} {s : State} {f : BlockFault} (h : evalRecord p s.ts = .error f) :
    commit p s = raise f s := by
  rw [commit, h]

/-- ENCPIVOT answers ENC.EVAL's fault (R85). -/
theorem encPivot_of_fault {p : Config.Params} {ts : Timestamp} {f : BlockFault} (h : evalRecord p ts = .error f) :
    encPivot p ts = .error f := by
  rw [encPivot, encPw, h]
  rfl

/-- Outside the domain ENC.EVAL faults (R100, R101). -/
theorem exists_fault_of_not_inDomain {ts : Timestamp} (h : ¬ InDomain ts) :
    ∃ f, evalRecord Config.build ts = .error f := by
  rcases evalRecord_build_cases ts with ⟨hd, -⟩ | ⟨f, -, hf⟩
  · exact absurd hd h
  · exact ⟨f, hf⟩

/-- Settles O46: ENCPIVOT answers a number in the domain, and ENC.EVAL's fault outside it. -/
theorem commitReplacesShared : Obligations.CommitReplacesShared := by
  intro s hp
  constructor
  · intro hd
    obtain ⟨n, hle, hn⟩ := exists_encPivot_of_inDomain hd
    exact ⟨n, hn, hle, exec_updCommit_of_encPivot hp hn⟩
  · intro hd
    obtain ⟨f, hf⟩ := exists_fault_of_not_inDomain hd
    exact ⟨f, encPivot_of_fault hf, (exec_updCommit hp).trans (congrArg _ (commit_of_fault hf))⟩

/-! ## The updater reads nothing of the renderer (R178) -/

/-- The state with another pivot, count and sample: all that the renderer reads or leaves. -/
def withRenderer (pv ct : Word) (o : Option Word) (s : State) : State := { s with pivot := pv, count := ct, out := o }

section
variable (pv ct : Word) (o : Option Word) (s : State)

/-- UPD.ARM carries another pivot and count through, and rewrites the sample wire. -/
theorem arm_withRenderer : arm (withRenderer pv ct o s) = { arm s with pivot := pv, count := ct } := by
  cases hok : s.ts.ok with
  | false =>
    rw [arm_of_noReading hok, arm_of_noReading (s := withRenderer pv ct o s) hok]
    rfl
  | true =>
    rcases Nat.lt_or_ge 999999 s.ts.subsecUs.toNat with hus | hus
    · rw [arm_of_outOfRange hok hus, arm_of_outOfRange (s := withRenderer pv ct o s) hok hus]
      rfl
    · rw [arm_of_inRange hok hus, arm_of_inRange (s := withRenderer pv ct o s) hok hus]
      rfl

/-- UPD.BEGIN carries another pivot and count through, and rewrites the sample wire. -/
theorem beginStep_withRenderer :
    beginStep (withRenderer pv ct o s) = { beginStep s with pivot := pv, count := ct } := by
  cases hw : s.waitBroken with
  | false =>
    rw [beginStep_of_expired hw, beginStep_of_expired (s := withRenderer pv ct o s) hw]
    rfl
  | true =>
    rw [beginStep_of_interrupted hw, beginStep_of_interrupted (s := withRenderer pv ct o s) hw]
    rfl

variable {s}

/-- UPD.COMMIT in the domain overwrites pivot, count and the sample wire (R176). -/
theorem commit_withRenderer_of_inDomain (h : InDomain s.ts) :
    commit Config.build (withRenderer pv ct o s) = commit Config.build s :=
  (commit_of_inDomain (s := withRenderer pv ct o s) h).trans (commit_of_inDomain h).symm

/-- UPD.COMMIT that faults carries another pivot and count through, and rewrites the sample wire (R176). -/
theorem commit_withRenderer_of_fault {f : BlockFault} (h : evalRecord Config.build s.ts = .error f) :
    commit Config.build (withRenderer pv ct o s) = { commit Config.build s with pivot := pv, count := ct } := by
  rw [commit_of_fault h, commit_of_fault (s := withRenderer pv ct o s) h]
  rfl

end

/-- Settles O48, operation by operation: each carries another pivot and count through, but for the commit without a
fault, which writes them. -/
theorem updaterIgnoresRenderer : Obligations.UpdaterIgnoresRenderer := by
  rintro s pv ct o i ⟨ph, hi⟩ t hexec
  have hp := phase_of_exec_next hi hexec
  cases i with
  | updArm =>
    cases hi
    cases (exec_updArm hp).symm.trans hexec
    refine ⟨_, exec_updArm (s := withRenderer pv ct o s) hp, ?_, nofun⟩
    rw [arm_withRenderer]
  | updBegin =>
    cases hi
    cases (exec_updBegin hp).symm.trans hexec
    refine ⟨_, exec_updBegin (s := withRenderer pv ct o s) hp, ?_, nofun⟩
    rw [beginStep_withRenderer]
  | updCommit =>
    cases hi
    cases (exec_updCommit hp).symm.trans hexec
    have hdomain : InDomain s.ts → _ := commit_withRenderer_of_inDomain pv ct o
    refine ⟨_, exec_updCommit (s := withRenderer pv ct o s) hp, ?_, fun _ => hdomain⟩
    by_cases hd : InDomain s.ts
    · rw [hdomain hd]
    · obtain ⟨f, hf⟩ := exists_fault_of_not_inDomain hd
      rw [commit_withRenderer_of_fault pv ct o hf]
  | _ => cases hi

/-! ## What a laid-out event runs (R170, R200, R201, R220) -/

section
variable {s : State} {inp : Config.Inputs} {rest : List Slot}

/-- A step with an event laid out first takes it off the script, shows its inputs, and runs it. -/
theorem step_of_laidOutEvent {e : Config.Event} (hscript : s.script = ⟨.event e, inp⟩ :: rest) :
    step s = runEvent e (present inp { s with script := rest }) := by
  simp only [step, hscript, stepLaidOut, runCause]

/-- A laid-out turn of a halted updater does nothing (log entry 15). -/
theorem step_updater_of_halted (hscript : s.script = ⟨.event .updater, inp⟩ :: rest) (hp : s.phase = .halted) :
    step s = .next (silent (present inp { s with script := rest })) := by
  have hnone : updaterOp (present inp { s with script := rest }).phase = none := by rw [State.present_phase, hp]; rfl
  simp only [step_of_laidOutEvent hscript, runEvent, hnone]

end

/-- Settles O6, event by event, and the updater's phase by phase. -/
theorem stepRunsEvent : Obligations.StepRunsEvent := by
  intro s e inp rest hscript
  cases e with
  | sampleReq => exact step_of_laidOutEvent hscript
  | reset => exact step_of_laidOutEvent hscript
  | updater =>
    dsimp only
    split
    next hp => exact step_updater hscript (congrArg updaterOp hp)
    next hp => exact step_updater hscript (congrArg updaterOp hp)
    next hp => exact step_updater hscript (congrArg updaterOp hp)
    next hp => exact step_updater_of_halted hscript hp

end Sys2Proof.Proofs.UpdaterHandshake
end

section
/-!
PROOFS. The statements of 60_exceptions.md: the order in which ENC.EVAL takes its faults (R195, R193) and what they come to
for a clock that keeps its contract (R206), fault entry (R197, R198) and the count's overflow (R196), the range of the
samples (R207), which operation writes which register (R204), and a wake and a request at one instant (R202).
-/

namespace Sys2Proof.Proofs.Exceptions

open Sys2Proof.Machine Sys2Proof.Safety Sys2Proof.Laws
open Sys2Proof.Proofs.BlockState Sys2Proof.Proofs.Encoder Sys2Proof.Proofs.Generator Sys2Proof.Proofs.UpdaterHandshake

/-! ## The checks of ENC.EVAL in their order (R195, R100) -/

/-- The range check as R101 documents the ranges: the upper bounds of the day and the weekday are those of their ports. -/
theorem firstBadField_build_eq (ts : Timestamp) : firstBadField Config.build ts =
    if ts.month.toNat < 1 ∨ 12 < ts.month.toNat then some .month
    else if ts.day.toNat < 1 ∨ 31 < ts.day.toNat then some .day
    else if ts.weekday.toNat < 1 ∨ 7 < ts.weekday.toNat then some .weekday
    else if ts.hour12.toNat < 1 ∨ 12 < ts.hour12.toNat then some .hour12
    else if 59 < ts.minute.toNat then some .minute
    else if 59 < ts.second.toNat then some .second
    else none := by
  have hday : ¬ 31 < ts.day.toNat := Nat.not_lt.mpr (Nat.le_of_lt_succ ts.day.isLt)
  have hweekday : ¬ 7 < ts.weekday.toNat := Nat.not_lt.mpr (Nat.le_of_lt_succ ts.weekday.isLt)
  simp only [firstBadField_eq build_slots, hday, hweekday, or_false, Nat.succ_le_iff]

/-- Without a reading the clock's fault comes first, whatever the fields hold (R191, R195). -/
theorem recordFault_of_noReading {p : Config.Params} {ts : Timestamp} (hok : ts.ok = false) :
    recordFault p ts = some .clockFault := if_pos hok

/-- With a reading a field out of range comes before the year (R192, R195). -/
theorem recordFault_of_badField {p : Config.Params} {ts : Timestamp} {g : Field} (hok : ts.ok = true)
    (hfield : firstBadField p ts = some g) : recordFault p ts = some (.fieldOutOfRange g) := by
  simp [recordFault, hok, hfield]

/-- With a reading whose fields are in range the default build's last check is the year's (R193, R195). -/
theorem recordFault_of_lateYear {ts : Timestamp} (hok : ts.ok = true) (hrange : FieldsInRange ts)
    (hyear : 63 < ts.yy.toNat) : recordFault Config.build ts = some .yearOutOfRange := by
  have hfield := (firstBadField_eq_none_iff build_slots ts).mpr hrange
  simp [recordFault, hok, hfield, hyear]

/-- ENC.EVAL where a check fails ends in the state of fault entry (R100, R197). -/
theorem exec_encEval_eq_faulted {s : State} {g : BlockFault} (h : recordFault Config.build s.ts = some g)
    (f : BitVec 5) : exec (.encEval f) s = .next (Faulted s (faultCode g) g) := exec_encEval_of_fault h f

/-- ENC.EVAL with a field out of range (R192, R197). -/
theorem exec_encEval_of_badField {s : State} {g : Field} (hok : s.ts.ok = true)
    (hfield : firstBadField Config.build s.ts = some g) (f : BitVec 5) :
    exec (.encEval f) s = .next (Faulted s 2 (.fieldOutOfRange g)) :=
  exec_encEval_eq_faulted (recordFault_of_badField hok hfield) f

/-- Settles O23, check by check: the range check answers the first field that fails, and past all checks the record is in
the domain. -/
theorem evalFaultPriority : Obligations.EvalFaultPriority := by
  intro s f
  have hfield := firstBadField_build_eq s.ts
  by_cases hclock : s.ts.ok = false
  · rw [if_pos hclock]
    exact exec_encEval_eq_faulted (recordFault_of_noReading hclock) f
  have hok : s.ts.ok = true := by simpa using hclock
  rw [if_neg hclock]
  split_ifs at hfield ⊢ with hmonth hday hweekday hhour hminute hsecond hyear
  on_goal 8 =>
    have hrange := (firstBadField_eq_none_iff build_slots s.ts).mp hfield
    exact ⟨_, returns_encEval_of_inDomain ⟨hok, hrange, Nat.not_lt.mp hyear⟩ f⟩
  on_goal 7 =>
    have hrange := (firstBadField_eq_none_iff build_slots s.ts).mp hfield
    exact exec_encEval_eq_faulted (recordFault_of_lateYear hok hrange hyear) f
  all_goals exact exec_encEval_of_badField hok hfield f

/-- Settles O24: the truncating policy drops the year's check, which no row reads, and the default policy keeps it. -/
theorem truncatingBuildEncodesYear : Obligations.TruncatingBuildEncodesYear := by
  intro ts hok hrange
  constructor
  · have hnone := (recordFault_eq_none_iff (p := { Config.build with yearPolicy := .truncate }) rfl ts).mpr
      ⟨hok, hrange, nofun⟩
    exact evalRecord_of_recordFault rfl hnone (frag_build_val ts).symm
  · intro hyear
    rw [evalRecord, recordFault_of_lateYear hok hrange hyear]

/-! ## A clock that keeps its contract (R206) -/

/-- A reading of a valid civil time has every field in range (R206 duties 3 to 7, R101). -/
theorem fieldsInRange_of_presents {p : Config.Params} {c : CivilTime} {ts : Timestamp} (hvalid : c.valid)
    (h : Presents p c ts) (hok : ts.ok = true) : FieldsInRange ts := by
  obtain ⟨hmonth, hday, hweekday, hhour, hminute, hsecond, -⟩ := hvalid
  obtain ⟨-, -, hfields⟩ := h
  obtain ⟨-, emonth, eday, eweekday, ehour, -, eminute, esecond, -⟩ := hfields hok
  have hhour12 : 1 ≤ ts.hour12.toNat ∧ ts.hour12.toNat ≤ 12 := by
    rw [ehour]
    split <;> omega
  exact ⟨emonth ▸ hmonth, eday ▸ hday, eweekday ▸ hweekday, hhour12, eminute ▸ hminute, esecond ▸ hsecond⟩

/-- Settles O25: the reading's year is the civil year above 2000 where the record can hold it, and no reading otherwise. -/
theorem contractYears : Obligations.ContractYears := by
  intro c s f hvalid hpresents
  have hrange := fieldsInRange_of_presents hvalid hpresents
  obtain ⟨-, hreading, hfields⟩ := hpresents
  refine ⟨fun hyear => ?_, fun hyear => ?_, fun hyear => ?_⟩
  · have hok := hreading.mpr (by omega)
    obtain ⟨hyy, -⟩ := hfields hok
    have hdomain : InDomain s.ts := ⟨hok, hrange hok, by omega⟩
    exact ⟨hdomain, _, returns_encEval_of_inDomain hdomain f⟩
  · have hok := hreading.mpr (by omega)
    obtain ⟨hyy, -⟩ := hfields hok
    exact exec_encEval_eq_faulted (recordFault_of_lateYear hok (hrange hok) (by omega)) f
  · have hok : s.ts.ok = false := Bool.eq_false_iff.mpr (mt hreading.mp (by omega))
    exact exec_encEval_eq_faulted (recordFault_of_noReading hok) f

/-! ## The range of the samples (R207) -/

/-- The magnitude bits of an envelope's sample are at most those of 1.0, on both sides of the pivot (R153, R156). -/
theorem envelope_magnitude (p : Config.Params) (pivot : Word) (n : Nat) :
    (envelope p pivot n).toNat % 2 ^ 31 ≤ 0x3F800000 := by
  unfold envelope
  split
  · exact sinq_magnitude p n
  · decide

/-- RND.SAMPLE answers on every path, with magnitude bits of at most those of 1.0 (R60, R207). -/
theorem sample_build_magnitude (s : State) :
    ∃ v, (sample Config.build s).out = some v ∧ v.toNat % 2 ^ 31 ≤ 0x3F800000 := by
  rcases sample_build_cases s with ⟨-, heq⟩ | ⟨-, -, heq⟩ | ⟨-, -, -, heq⟩ | ⟨-, -, -, heq⟩ <;> rw [heq]
  · exact ⟨0, rfl, by decide⟩
  · exact ⟨0x3F800000, rfl, by decide⟩
  · exact ⟨0, rfl, by decide⟩
  · exact ⟨_, rfl, envelope_magnitude _ _ _⟩

/-- Settles O37: a pattern with such magnitude bits is finite and of absolute value at most 1. -/
theorem everySampleInRange : Obligations.EverySampleInRange := by
  intro s
  obtain ⟨v, hv, hmagnitude⟩ := sample_build_magnitude s
  obtain ⟨hlow, hhigh⟩ := abs_le.mp (abs_binary32_le_one hmagnitude)
  exact ⟨_, v, exec_rndSample s, hv, finite32_of_magnitude hmagnitude, hlow, hhigh⟩

/-- Settles O38: the IDLE path at the count's maximum, where no fault was recorded and the flag was clear already. -/
theorem countOverflowFaults : Obligations.CountOverflowFaults := by
  intro s hidle hcount
  have hfull : s.count.toNat = 2 ^ Config.build.cntW - 1 := by rw [hcount]; decide
  rw [exec_rndSample, sample_of_idle_of_full hidle hfull]
  obtain ⟨hf, hu⟩ := hidle
  simp [raiseAnswering, raise, hf, hu, faultCode]

/-! ## Fault entry (R197, R198) -/

/-- With a fault recorded RND.SAMPLE answers 0.0 and changes no register (R152). -/
theorem sample_build_of_faulted {s : State} (hf : s.fltCode ≠ 0) : sample Config.build s = answer 0 s := by
  rcases sample_build_cases s with ⟨-, heq⟩ | ⟨h0, -⟩ | ⟨h0, -⟩ | ⟨h0, -⟩
  · exact heq
  all_goals exact absurd h0 hf

/-- HALTED enables no operation of the updater (R170). -/
theorem enablingPhase_ne_halted {i : Instr} {ph : Phase} (h : enablingPhase i = some ph) : .halted ≠ ph := by
  cases i <;> cases h <;> decide

/-- An operation that shows a fault has taken it by fault entry; only the overflow's step puts out a sample beside
(R196, R197). -/
theorem exec_of_raised {i : Instr} {s t : State} {f : BlockFault} (h : exec i s = .next t)
    (hraised : t.result = some (.raised f)) : t = { raise f s with out := t.out } := by
  rcases exec_cases h with ⟨r, hr, rfl, -⟩ | ⟨-, rfl⟩ | ⟨g, -, rfl, -⟩ | ⟨-, -, -, -, rfl⟩ | ⟨-, -, -, rfl⟩ | ⟨-, -, -, rfl⟩
  case inl => exact absurd (Option.some.inj hraised) (hr f)
  case inr.inl =>
    rcases sample_build_cases s with ⟨-, heq⟩ | ⟨-, -, heq⟩ | ⟨-, -, -, heq⟩ | ⟨-, -, -, heq⟩ <;> rw [heq] at hraised ⊢
    case inr.inr.inl => cases hraised; rfl
    all_goals cases hraised
  case inr.inr.inl => cases hraised; rfl
  all_goals cases hraised

/-- Fault entry leaves a code recorded: the fault's own, or the one already there (R197). -/
theorem raise_fltCode_ne_zero (f : BlockFault) (s : State) : (raise f s).fltCode ≠ 0 := by
  by_cases hf : s.fltCode = 0
  · rw [raise_fltCode_of_healthy hf]
    exact faultCode_ne_zero f
  · rwa [raise_fltCode_of_faulted hf]

/-- Fault entry changes the code only where none was recorded (R197). -/
theorem healthy_of_raise_fltCode_ne {f : BlockFault} {s : State} (h : (raise f s).fltCode ≠ s.fltCode) :
    s.fltCode = 0 :=
  by_contra fun hf => h (raise_fltCode_of_faulted hf f)

/-- Settles O50: fault entry halts with a code recorded, which every later state keeps until a reset. -/
theorem faultEntry : Obligations.FaultEntry := by
  intro i s t f hexec hraised
  have ht := exec_of_raised hexec hraised
  have hcode : t.fltCode ≠ 0 := by
    rw [ht]
    exact raise_fltCode_ne_zero f s
  have hphase : t.phase = .halted := by rw [ht]; rfl
  refine ⟨ht, hcode, fun u hlater => ?_⟩
  obtain ⟨hkept, hhalted⟩ := later_keeps_halted hcode hphase hlater
  refine ⟨hkept, hhalted, ?_, fun j ph hj => ?_⟩
  · exact (exec_rndSample u).trans (congrArg _ (sample_build_of_faulted (hkept ▸ hcode)))
  · rw [exec_of_notEnabled hj (hhalted ▸ enablingPhase_ne_halted hj), hhalted]

/-! ## Which operation writes which register (R204) -/

/-- Settles O51, write by write: each of the block's writes leaves every register it does not name. -/
theorem accessRights : Obligations.AccessRights := by
  intro i s t hexec
  rcases exec_cases hexec with ⟨r, -, rfl, -⟩ | ⟨rfl, rfl⟩ | ⟨f, -, rfl, -⟩ | ⟨rfl, -, -, -, rfl⟩ | ⟨rfl, -, -, rfl⟩ |
    ⟨rfl, -, -, rfl⟩
  case inl => simp
  case inr.inl =>
    rcases sample_build_cases s with ⟨-, heq⟩ | ⟨-, -, heq⟩ | ⟨hf, -, -, heq⟩ | ⟨-, -, -, heq⟩ <;> rw [heq]
    case inr.inr.inl => simp [hf]
    all_goals simp
  case inr.inr.inl =>
    have hcode := healthy_of_raise_fltCode_ne (f := f) (s := s)
    exact ⟨absurd rfl, absurd rfl, absurd rfl, fun _ => .inr (.inr rfl), fun _ => .inr rfl, fun h => ⟨rfl, hcode h⟩,
      exec_keeps_outside hexec⟩
  all_goals simp [enablingPhase]

/-! ## A wake and a request at one instant (R202) -/

/-- Operations run one after another go on from where the first ends. -/
theorem runAll_cons {i : Instr} {s t : State} (h : exec i s = .next t) (rest : List Instr) :
    runAll (i :: rest) s = runAll rest t := by
  simp only [runAll, h]

/-- One operation run alone. -/
theorem runAll_singleton {i : Instr} {s t : State} (h : exec i s = .next t) : runAll [i] s = .next t := runAll_cons h []

/-- UPD.BEGIN in SLEEPING after a wait that expired (R174). -/
theorem exec_updBegin_of_expired {s : State} (hp : s.phase = .sleeping) (hw : s.waitBroken = false) :
    exec .updBegin s = .next (beginUpdate s) :=
  (exec_updBegin hp).trans (congrArg _ (beginStep_of_expired hw))

/-- Settles O53: the two orders end in states that differ in the count and the sample wire alone, which a commit in the
domain overwrites (O48). -/
theorem eitherOrderOfEvents : Obligations.EitherOrderOfEvents := by
  intro s hf hp hu hw hcount hdomain
  let old := answer (envelope Config.build s.pivot s.count.toNat) (countSample s)
  let t := answer 0x3F800000 (beginUpdate s)
  have hold : exec .rndSample s = .next old :=
    (exec_rndSample s).trans (congrArg _ (sample_build_of_idle ⟨hf, hu⟩ (by omega)))
  have hplaceholder : exec .rndSample (beginUpdate s) = .next t :=
    (exec_rndSample _).trans (congrArg _ (Memory.sample_of_updating (s := beginUpdate s) hf rfl))
  have hfirst : runAll [.updBegin, .rndSample] s = .next t :=
    (runAll_cons (exec_updBegin_of_expired hp hw) _).trans (runAll_singleton hplaceholder)
  have hlast : runAll [.rndSample, .updBegin] s = .next (beginUpdate old) :=
    (runAll_cons hold _).trans (runAll_singleton (exec_updBegin_of_expired (s := old) hp hw))
  have hcommit : commit Config.build (beginUpdate old) = commit Config.build t :=
    commit_withRenderer_of_inDomain s.pivot (s.count + 1) none (s := t) hdomain
  refine ⟨t, beginUpdate old, old, hfirst, rfl, rfl, runAll_singleton hold, nofun, rfl, hlast, rfl, rfl, rfl, rfl, ?_⟩
  exact (exec_updCommit (s := beginUpdate old) rfl).trans
    ((congrArg _ hcommit).trans (exec_updCommit (s := t) rfl).symm)

end Sys2Proof.Proofs.Exceptions
end

section
/-!
PROOFS. The statement of 70_reset_and_hazards.md: the reset event brings any state, a faulted one too, to the reset state
(R220, R198).
-/

namespace Sys2Proof.Proofs.Reset

open Sys2Proof.Machine Sys2Proof.Safety Sys2Proof.Laws.State

/-- The reset event completes in every state with the block's registers at their reset values (R220). -/
theorem runEvent_reset (s : State) : runEvent .reset s = .next (resetBlock s) := rfl

/-- No recorded fault survives a reset (R198). -/
theorem healthy_resetBlock (s : State) : Healthy (resetBlock s) := resetBlock_fltCode s

/-- Settles O56: the reset event takes the block's reset, whose state has the code 0 and the phase READY. -/
theorem resetFromAnyState : Obligations.ResetFromAnyState := fun s =>
  ⟨resetBlock s, runEvent_reset s, rfl, healthy_resetBlock s, resetBlock_phase s⟩

end Sys2Proof.Proofs.Reset
end
